-- ==== Sys2Proof/Word.lean ====
section
/-! DEFINITION. The bit-vector types of the CORE: bytes, 16-bit words, 12-bit addresses, register numbers. -/

namespace Sys2Proof

/-- One byte: a register of the file, a memory cell, a timer, an NN immediate (R5, R10, R36). -/
abbrev Byte := BitVec 8

/-- Sixteen bits: an instruction word, PC, I, a stack slot (R13, R17, R19, R42). -/
abbrev Word := BitVec 16

/-- An NNN immediate, a 12-bit address (R45). -/
abbrev Addr12 := BitVec 12

/-- A register number, 0x0 to 0xF (R10). -/
abbrev Reg := Fin 16

/-- Register 0xF, the flags register (R11). -/
abbrev vf : Reg := 15

end Sys2Proof
end

