-- ==== Sys2Proof/Config.lean ====
section
/-! DEFINITION. What an implementation fixes (the constants and parameters of R5) and the free values. -/

namespace Sys2Proof

/-- MEM_SIZE of R5: addresses 0x000 to 0xFFF. -/
abbrev Config.memSize : Nat := 0x1000

/-- PROGRAM_BASE of R5, where LOAD puts the image. -/
abbrev Config.programBase : Nat := 0x200

/-- PC_RESET of R5. -/
abbrev Config.pcReset : Word := 0x200

/-- OOR_POLICY of R5 and R30: what an access to an address at or above 0x1000 does. -/
inductive OorPolicy where
  /-- The address is taken modulo 0x1000. -/
  | mask
  /-- The access raises ADDRESS_RANGE. -/
  | fault
  deriving DecidableEq, Repr

/-- SHIFT_VF_ORDER of R5 and R69: the order of the two writes of 8XY6 and 8XYE. -/
inductive ShiftVfOrder where
  /-- VF first, then the destination. -/
  | flagThenResult
  /-- The destination first, then VF. -/
  | resultThenFlag
  deriving DecidableEq, Repr

/-- KEY_INDEX_POLICY of R5 and R87: what EX9E and EXA1 do when Vx is above 0xF. -/
inductive KeyIndexPolicy where
  /-- The instruction raises KEY_INDEX_RANGE. -/
  | fault
  /-- The key is the low nibble of Vx. -/
  | maskLowNibble
  deriving DecidableEq, Repr

/-- The parameters R5 leaves open, which "the model takes as an argument". They are fixed for one machine:
no step and no host operation writes them. -/
structure Params where
  /-- OOR_POLICY (R30, D2). -/
  oorPolicy : OorPolicy
  /-- SHIFT_VF_ORDER (R69, D7). -/
  shiftVfOrder : ShiftVfOrder
  /-- KEY_INDEX_POLICY (R87, D10). -/
  keyIndexPolicy : KeyIndexPolicy
  /-- FONT_DIGIT_MASK (R95, D11). -/
  fontDigitMask : Bool
  /-- FONT, the 80 glyph bytes (R25, D12). -/
  font : Vector Byte 80
  deriving DecidableEq, Repr

/-- ENTROPY of R5: the free 8-bit draws of CXNN, one per execution (R83, R114, D23). The n-th draw taken by a
machine is `entropy n`. It has no body: nothing constrains it, so a statement that holds, holds for every
sequence of draws. DESIGN CHOICE, log entry 7, safe. -/
opaque Config.entropy : Nat → Byte

end Sys2Proof
end

