-- ==== Sys2Proof/Syntax.lean ====
section
/-! DEFINITION. The abstract syntax: the 35 instructions of R52 and the shape of an opcode-table row. -/

namespace Sys2Proof

/-- The instructions of R52, one constructor per row of the opcode table, with the operands of R45. Every operand
has exactly its encoded width by its type. The don't-care field y of SHR and SHL (R55) is kept, so that a
decoded instruction still determines its word. -/
inductive Instr where
  /-- 0000 (R57) -/
  | nop
  /-- 00E0 (R58) -/
  | cls
  /-- 00EE (R59) -/
  | ret
  /-- 1NNN (R60) -/
  | jp (nnn : Addr12)
  /-- 2NNN (R61) -/
  | call (nnn : Addr12)
  /-- 3XNN (R63) -/
  | seByte (x : Reg) (nn : Byte)
  /-- 4XNN (R64) -/
  | sneByte (x : Reg) (nn : Byte)
  /-- 5XY0 (R65) -/
  | seReg (x y : Reg)
  /-- 6XNN (R67) -/
  | ldByte (x : Reg) (nn : Byte)
  /-- 7XNN (R68) -/
  | addByte (x : Reg) (nn : Byte)
  /-- 8XY0 (R70) -/
  | ldReg (x y : Reg)
  /-- 8XY1 (R71) -/
  | or (x y : Reg)
  /-- 8XY2 (R72) -/
  | and (x y : Reg)
  /-- 8XY3 (R73) -/
  | xor (x y : Reg)
  /-- 8XY4 (R74) -/
  | addReg (x y : Reg)
  /-- 8XY5 (R75) -/
  | sub (x y : Reg)
  /-- 8XY6 (R76); y is not read -/
  | shr (x y : Reg)
  /-- 8XY7 (R77); the destination is Vy -/
  | subn (x y : Reg)
  /-- 8XYE (R78); y is not read -/
  | shl (x y : Reg)
  /-- 9XY0 (R66) -/
  | sneReg (x y : Reg)
  /-- ANNN (R81) -/
  | ldI (nnn : Addr12)
  /-- BNNN (R82) -/
  | jpV0 (nnn : Addr12)
  /-- CXNN (R83) -/
  | rnd (x : Reg) (nn : Byte)
  /-- DXYN (R84); n is the row count 0..15 -/
  | drw (x y : Reg) (n : Fin 16)
  /-- EX9E (R88) -/
  | skp (x : Reg)
  /-- EXA1 (R89) -/
  | sknp (x : Reg)
  /-- FX07 (R91) -/
  | ldVxDt (x : Reg)
  /-- FX0A (R90) -/
  | ldVxK (x : Reg)
  /-- FX15 (R92) -/
  | ldDtVx (x : Reg)
  /-- FX18 (R93) -/
  | ldStVx (x : Reg)
  /-- FX1E (R94) -/
  | addIVx (x : Reg)
  /-- FX29 (R95) -/
  | ldFVx (x : Reg)
  /-- FX33 (R96) -/
  | ldBVx (x : Reg)
  /-- FX55 (R97) -/
  | ldMemVx (x : Reg)
  /-- FX65 (R98) -/
  | ldVxMem (x : Reg)
  deriving DecidableEq, Repr

/-- A row of the opcode table: the words w with `w &&& mask = value` (R52; the table calls the value "match"). -/
structure OpRow where
  value : Word
  mask : Word
  deriving DecidableEq, Repr

end Sys2Proof
end

