-- ==== Sys2Proof/WellFormed.lean ====
section
/-! DEFINITION. The checks that types do not make. An `Instr` needs none: each operand has its encoded width by its
type (R45), so an ill-formed instruction cannot be written. What remains to check is an opcode-table row and a
program image. -/

namespace Sys2Proof

/-- A table row fixes no bit outside its mask (R52): otherwise no word would match it. -/
abbrev OpRow.wf (r : OpRow) : Prop := r.value &&& r.mask = r.value

/-- The word matches the row. -/
abbrev OpRow.covers (r : OpRow) (w : Word) : Prop := w &&& r.mask = r.value

/-- No word matches both rows: some bit that both masks fix is fixed differently (R50, "pairwise disjoint"). -/
abbrev OpRow.apart (r q : OpRow) : Prop := r.value &&& q.mask ≠ q.value &&& r.mask

/-- The precondition of LOAD on the image (R117): it ends at or below 0x1000, so it has at most 3584 bytes. -/
abbrev imageFits (bytes : List Byte) : Prop := Config.programBase + bytes.length ≤ Config.memSize

end Sys2Proof
end

