-- ==== Sys2Proof/Decode.lean ====
section
/-! DEFINITION. Decoding (R42–R55): fields, the total decoder of words and of byte streams, the encoder, the opcode
table of R52 as data, and the host's `decodeTableWord`. -/

namespace Sys2Proof

/-- Why bytes do not decode. -/
inductive DecodeError where
  /-- The word matches no pattern of R52 (R53). -/
  | unimplemented (w : Word)
  /-- Fewer than two bytes are left; every instruction has exactly two (R42). -/
  | truncated
  deriving DecidableEq, Repr

/-! ### Fields (R6, R43) -/

/-- n1 = w[15:12], the family selector. -/
def fieldN1 (w : Word) : BitVec 4 := w.extractLsb' 12 4

/-- x = w[11:8]. -/
def fieldX (w : Word) : Reg := (w.extractLsb' 8 4).toFin

/-- y = w[7:4]. -/
def fieldY (w : Word) : Reg := (w.extractLsb' 4 4).toFin

/-- n4 = w[3:0] as opcode bits. -/
def fieldN4 (w : Word) : BitVec 4 := w.extractLsb' 0 4

/-- N = w[3:0] as the row count of DXYN. -/
def fieldN (w : Word) : Fin 16 := (fieldN4 w).toFin

/-- NN = w[7:0]. -/
def fieldNN (w : Word) : Byte := w.extractLsb' 0 8

/-- NNN = w[11:0]. -/
def fieldNNN (w : Word) : Addr12 := w.extractLsb' 0 12

/-! ### The decoder (R50) -/

/-- Family 0: selected by the whole word. -/
def decodeFamily0 (w : Word) : Except DecodeError Instr :=
  if w = 0x0000#16 then .ok .nop
  else if w = 0x00E0#16 then .ok .cls
  else if w = 0x00EE#16 then .ok .ret
  else .error (.unimplemented w)

/-- Family 8: selected by n4. -/
def decodeFamily8 (w : Word) : Except DecodeError Instr :=
  match fieldN4 w with
  | 0x0#4 => .ok (.ldReg (fieldX w) (fieldY w))
  | 0x1#4 => .ok (.or (fieldX w) (fieldY w))
  | 0x2#4 => .ok (.and (fieldX w) (fieldY w))
  | 0x3#4 => .ok (.xor (fieldX w) (fieldY w))
  | 0x4#4 => .ok (.addReg (fieldX w) (fieldY w))
  | 0x5#4 => .ok (.sub (fieldX w) (fieldY w))
  | 0x6#4 => .ok (.shr (fieldX w) (fieldY w))
  | 0x7#4 => .ok (.subn (fieldX w) (fieldY w))
  | 0xE#4 => .ok (.shl (fieldX w) (fieldY w))
  | _ => .error (.unimplemented w)

/-- Family E: selected by NN. -/
def decodeFamilyE (w : Word) : Except DecodeError Instr :=
  match fieldNN w with
  | 0x9E#8 => .ok (.skp (fieldX w))
  | 0xA1#8 => .ok (.sknp (fieldX w))
  | _ => .error (.unimplemented w)

/-- Family F: selected by NN. -/
def decodeFamilyF (w : Word) : Except DecodeError Instr :=
  match fieldNN w with
  | 0x07#8 => .ok (.ldVxDt (fieldX w))
  | 0x0A#8 => .ok (.ldVxK (fieldX w))
  | 0x15#8 => .ok (.ldDtVx (fieldX w))
  | 0x18#8 => .ok (.ldStVx (fieldX w))
  | 0x1E#8 => .ok (.addIVx (fieldX w))
  | 0x29#8 => .ok (.ldFVx (fieldX w))
  | 0x33#8 => .ok (.ldBVx (fieldX w))
  | 0x55#8 => .ok (.ldMemVx (fieldX w))
  | 0x65#8 => .ok (.ldVxMem (fieldX w))
  | _ => .error (.unimplemented w)

/-- `Decode` of R50, total on 16-bit words: the family by n1, then the family's own selector. -/
def decodeWord (w : Word) : Except DecodeError Instr :=
  match fieldN1 w with
  | 0x0#4 => decodeFamily0 w
  | 0x1#4 => .ok (.jp (fieldNNN w))
  | 0x2#4 => .ok (.call (fieldNNN w))
  | 0x3#4 => .ok (.seByte (fieldX w) (fieldNN w))
  | 0x4#4 => .ok (.sneByte (fieldX w) (fieldNN w))
  | 0x5#4 => if fieldN4 w = 0 then .ok (.seReg (fieldX w) (fieldY w)) else .error (.unimplemented w)
  | 0x6#4 => .ok (.ldByte (fieldX w) (fieldNN w))
  | 0x7#4 => .ok (.addByte (fieldX w) (fieldNN w))
  | 0x8#4 => decodeFamily8 w
  | 0x9#4 => if fieldN4 w = 0 then .ok (.sneReg (fieldX w) (fieldY w)) else .error (.unimplemented w)
  | 0xA#4 => .ok (.ldI (fieldNNN w))
  | 0xB#4 => .ok (.jpV0 (fieldNNN w))
  | 0xC#4 => .ok (.rnd (fieldX w) (fieldNN w))
  | 0xD#4 => .ok (.drw (fieldX w) (fieldY w) (fieldN w))
  | 0xE#4 => decodeFamilyE w
  | _ => decodeFamilyF w

/-- The big-endian word of two bytes, the first in bits 15:8 (R34). -/
def wordOfBytes (hi lo : Byte) : Word := hi ++ lo

/-- The two bytes of a word as memory holds them, the high one first (R34). -/
def bytesOfWord (w : Word) : List Byte := [w.extractLsb' 8 8, w.extractLsb' 0 8]

/-- Decodes the instruction at the head of a byte stream and returns the rest: always two bytes (R42). -/
def decode (bytes : List Byte) : Except DecodeError (Instr × List Byte) :=
  match bytes with
  | hi :: lo :: rest =>
    match decodeWord (wordOfBytes hi lo) with
    | .ok i => .ok (i, rest)
    | .error e => .error e
  | _ => .error .truncated

/-! ### The encoder (R44, R52) -/

/-- A register number or row count as its four bits. -/
def nibble (r : Fin 16) : BitVec 4 := BitVec.ofFin r

/-- Format ADDR: opcode, NNN. -/
def formAddr (op : BitVec 4) (nnn : Addr12) : Word := op ++ nnn

/-- Format XNN: opcode, x, NN. -/
def formXnn (op : BitVec 4) (x : Reg) (nn : Byte) : Word := op ++ nibble x ++ nn

/-- Formats XY and XYN: opcode, x, y, and four bits that are a sub-operation or the row count. -/
def formXyn (op : BitVec 4) (x y : Reg) (n : BitVec 4) : Word := op ++ nibble x ++ nibble y ++ n

/-- The word of an instruction, from the layouts of R44 and the patterns of R52. -/
def encode : Instr → Word
  | .nop => 0x0000
  | .cls => 0x00E0
  | .ret => 0x00EE
  | .jp nnn => formAddr 0x1 nnn
  | .call nnn => formAddr 0x2 nnn
  | .seByte x nn => formXnn 0x3 x nn
  | .sneByte x nn => formXnn 0x4 x nn
  | .seReg x y => formXyn 0x5 x y 0x0
  | .ldByte x nn => formXnn 0x6 x nn
  | .addByte x nn => formXnn 0x7 x nn
  | .ldReg x y => formXyn 0x8 x y 0x0
  | .or x y => formXyn 0x8 x y 0x1
  | .and x y => formXyn 0x8 x y 0x2
  | .xor x y => formXyn 0x8 x y 0x3
  | .addReg x y => formXyn 0x8 x y 0x4
  | .sub x y => formXyn 0x8 x y 0x5
  | .shr x y => formXyn 0x8 x y 0x6
  | .subn x y => formXyn 0x8 x y 0x7
  | .shl x y => formXyn 0x8 x y 0xE
  | .sneReg x y => formXyn 0x9 x y 0x0
  | .ldI nnn => formAddr 0xA nnn
  | .jpV0 nnn => formAddr 0xB nnn
  | .rnd x nn => formXnn 0xC x nn
  | .drw x y n => formXyn 0xD x y (nibble n)
  | .skp x => formXnn 0xE x 0x9E
  | .sknp x => formXnn 0xE x 0xA1
  | .ldVxDt x => formXnn 0xF x 0x07
  | .ldVxK x => formXnn 0xF x 0x0A
  | .ldDtVx x => formXnn 0xF x 0x15
  | .ldStVx x => formXnn 0xF x 0x18
  | .addIVx x => formXnn 0xF x 0x1E
  | .ldFVx x => formXnn 0xF x 0x29
  | .ldBVx x => formXnn 0xF x 0x33
  | .ldMemVx x => formXnn 0xF x 0x55
  | .ldVxMem x => formXnn 0xF x 0x65

/-- The row of R52 an instruction stands in: its match and mask, written from the table and not from `encode`. -/
def Instr.row : Instr → OpRow
  | .nop => ⟨0x0000, 0xFFFF⟩
  | .cls => ⟨0x00E0, 0xFFFF⟩
  | .ret => ⟨0x00EE, 0xFFFF⟩
  | .jp _ => ⟨0x1000, 0xF000⟩
  | .call _ => ⟨0x2000, 0xF000⟩
  | .seByte _ _ => ⟨0x3000, 0xF000⟩
  | .sneByte _ _ => ⟨0x4000, 0xF000⟩
  | .seReg _ _ => ⟨0x5000, 0xF00F⟩
  | .ldByte _ _ => ⟨0x6000, 0xF000⟩
  | .addByte _ _ => ⟨0x7000, 0xF000⟩
  | .ldReg _ _ => ⟨0x8000, 0xF00F⟩
  | .or _ _ => ⟨0x8001, 0xF00F⟩
  | .and _ _ => ⟨0x8002, 0xF00F⟩
  | .xor _ _ => ⟨0x8003, 0xF00F⟩
  | .addReg _ _ => ⟨0x8004, 0xF00F⟩
  | .sub _ _ => ⟨0x8005, 0xF00F⟩
  | .shr _ _ => ⟨0x8006, 0xF00F⟩
  | .subn _ _ => ⟨0x8007, 0xF00F⟩
  | .shl _ _ => ⟨0x800E, 0xF00F⟩
  | .sneReg _ _ => ⟨0x9000, 0xF00F⟩
  | .ldI _ => ⟨0xA000, 0xF000⟩
  | .jpV0 _ => ⟨0xB000, 0xF000⟩
  | .rnd _ _ => ⟨0xC000, 0xF000⟩
  | .drw _ _ _ => ⟨0xD000, 0xF000⟩
  | .skp _ => ⟨0xE09E, 0xF0FF⟩
  | .sknp _ => ⟨0xE0A1, 0xF0FF⟩
  | .ldVxDt _ => ⟨0xF007, 0xF0FF⟩
  | .ldVxK _ => ⟨0xF00A, 0xF0FF⟩
  | .ldDtVx _ => ⟨0xF015, 0xF0FF⟩
  | .ldStVx _ => ⟨0xF018, 0xF0FF⟩
  | .addIVx _ => ⟨0xF01E, 0xF0FF⟩
  | .ldFVx _ => ⟨0xF029, 0xF0FF⟩
  | .ldBVx _ => ⟨0xF033, 0xF0FF⟩
  | .ldMemVx _ => ⟨0xF055, 0xF0FF⟩
  | .ldVxMem _ => ⟨0xF065, 0xF0FF⟩

/-- The opcode table of R52 in the table's row order: families 0 to 7. -/
def opTableLow : List OpRow :=
  [⟨0x0000, 0xFFFF⟩, ⟨0x00E0, 0xFFFF⟩, ⟨0x00EE, 0xFFFF⟩, ⟨0x1000, 0xF000⟩, ⟨0x2000, 0xF000⟩,
   ⟨0x3000, 0xF000⟩, ⟨0x4000, 0xF000⟩, ⟨0x5000, 0xF00F⟩, ⟨0x9000, 0xF00F⟩, ⟨0x6000, 0xF000⟩,
   ⟨0x7000, 0xF000⟩]

/-- The opcode table of R52: family 8. -/
def opTableAlu : List OpRow :=
  [⟨0x8000, 0xF00F⟩, ⟨0x8001, 0xF00F⟩, ⟨0x8002, 0xF00F⟩, ⟨0x8003, 0xF00F⟩, ⟨0x8004, 0xF00F⟩,
   ⟨0x8005, 0xF00F⟩, ⟨0x8006, 0xF00F⟩, ⟨0x8007, 0xF00F⟩, ⟨0x800E, 0xF00F⟩]

/-- The opcode table of R52: families A to F. -/
def opTableHigh : List OpRow :=
  [⟨0xA000, 0xF000⟩, ⟨0xB000, 0xF000⟩, ⟨0xC000, 0xF000⟩, ⟨0xD000, 0xF000⟩, ⟨0xE09E, 0xF0FF⟩,
   ⟨0xE0A1, 0xF0FF⟩, ⟨0xF00A, 0xF0FF⟩, ⟨0xF007, 0xF0FF⟩, ⟨0xF015, 0xF0FF⟩, ⟨0xF018, 0xF0FF⟩,
   ⟨0xF01E, 0xF0FF⟩, ⟨0xF029, 0xF0FF⟩, ⟨0xF033, 0xF0FF⟩, ⟨0xF055, 0xF0FF⟩, ⟨0xF065, 0xF0FF⟩]

/-- The 35 rows of R52. -/
def opTable : List OpRow := opTableLow ++ opTableAlu ++ opTableHigh

/-- The host's question: what the decoder reads from an instruction whose bits are `w`, numbered as the opcode
table numbers them. There is one word, laid out high byte first (R34); bits at and above `nbits` are 0. -/
def decodeTableWord (nbits w : Nat) : Option Instr :=
  match decode (bytesOfWord (BitVec.ofNat 16 (w % 2 ^ nbits))) with
  | .ok (i, _) => some i
  | .error _ => none

end Sys2Proof
end

