-- ==== Sys2Proof/Machine/Params.lean ====
section
/-! DEFINITION. The default parameter values of R5, among them the default font table of R25. -/

namespace Sys2Proof.Machine

/-- Glyphs 0 to 7 of R25. -/
def fontLow : List Byte :=
  [0xF0, 0x90, 0x90, 0x90, 0xF0, 0x20, 0x60, 0x20, 0x20, 0x70,
   0xF0, 0x10, 0xF0, 0x80, 0xF0, 0xF0, 0x10, 0xF0, 0x10, 0xF0,
   0x90, 0x90, 0xF0, 0x10, 0x10, 0xF0, 0x80, 0xF0, 0x10, 0xF0,
   0xF0, 0x80, 0xF0, 0x90, 0xF0, 0xF0, 0x10, 0x20, 0x40, 0x40]

/-- Glyphs 8 to F of R25. -/
def fontHigh : List Byte :=
  [0xF0, 0x90, 0xF0, 0x90, 0xF0, 0xF0, 0x90, 0xF0, 0x10, 0xF0,
   0xF0, 0x90, 0xF0, 0x90, 0x90, 0xE0, 0x90, 0xE0, 0x90, 0xE0,
   0xF0, 0x80, 0x80, 0x80, 0xF0, 0xE0, 0x90, 0x90, 0x90, 0xE0,
   0xF0, 0x80, 0xF0, 0x80, 0xF0, 0xF0, 0x80, 0xF0, 0x80, 0x80]

/-- The default FONT of R25, five bytes per digit, glyph d at 5·d. PRESUMED (the spec marks the bytes as general
knowledge), log entry 2. -/
def defaultFont : Vector Byte 80 := ⟨⟨fontLow ++ fontHigh⟩, rfl⟩

/-- The defaults of R5: OOR_POLICY = MASK, SHIFT_VF_ORDER = FLAG_THEN_RESULT, KEY_INDEX_POLICY = FAULT,
FONT_DIGIT_MASK = false, FONT of R25. DESIGN CHOICE, log entries 2 to 6. -/
def defaultParams : Params where
  oorPolicy := .mask
  shiftVfOrder := .flagThenResult
  keyIndexPolicy := .fault
  fontDigitMask := false
  font := defaultFont

end Sys2Proof.Machine
end

