-- ==== Sys2Proof/Machine/State.lean ====
section
/-! DEFINITION. The state of the CORE (10_state.md), the reasons a step can stop, and the state right after reset. -/

namespace Sys2Proof.Machine

/-- RUN_STATE of R16. -/
inductive RunState where
  | running
  | faulted
  deriving DecidableEq, Repr

/-- The fault kinds of R99, codes 1 to 5. The spec describes what raising each one does (R100), so the machine TAKES
it: `State.takeFault` gives a next state, and no step of this model ends in `Outcome.fault`. -/
inductive Fault where
  /-- Code 1. Raised by decode when the fetched word matches no pattern (R53). Taken, hence safe. -/
  | unimplementedOpcode
  /-- Code 2. Raised by 2NNN when SP = 16 (R61). Taken, hence safe. -/
  | stackOverflow
  /-- Code 3. Raised by 00EE when SP = 0 (R59). Taken, hence safe. -/
  | stackUnderflow
  /-- Code 4. Raised by EX9E and EXA1 when Vx is above 0xF and KEY_INDEX_POLICY = FAULT (R87). Taken, hence safe. -/
  | keyIndexRange
  /-- Code 5. Raised by the fetch, DXYN, FX33, FX55 and FX65 at an address of 0x1000 or above when
  OOR_POLICY = FAULT (R30). Taken, hence safe. -/
  | addressRange
  deriving DecidableEq, Repr

/-- Why the model gives no move. -/
inductive Refusal where
  /-- An instruction without a meaning. Raised only by an arm of `exec` that names it; no arm does. Safe. -/
  | notModelled (mnemonic : String)
  /-- STEP while LOADED is false: the host breaks a duty and the model gives no move (R118, D20, I4). Raised by
  `step`. Unsafe only for a driver that breaks the duty (R124), log entry 8. -/
  | stepBeforeLoad
  /-- LOAD while LOADED is true: the host breaks a duty and the model gives no move (R118, D20, I5). Raised by
  `hostOp`. Unsafe only for a driver that breaks the duty (R124), log entry 8. -/
  | loadWithoutReset
  deriving DecidableEq, Repr

/-- The frame buffer of R23: 32 rows of 64 one-bit pixels; pixel (px, py) is bit px of row py. -/
abbrev FrameBuffer := Vector (BitVec 64) 32

/-- Every pixel false. -/
abbrev blankFb : FrameBuffer := Vector.replicate 32 0

/-- The whole state of the CORE. How SP, FAULT_KIND and FB are held is a DESIGN CHOICE, log entry 14. -/
structure State where
  /-- V0 to VF (R10, R11). -/
  v : Vector Byte 16
  /-- I, the index register (R17). -/
  index : Word
  /-- PC (R13). -/
  pc : Word
  /-- SP, the number of occupied stack slots, 0..16 (R18). -/
  sp : Fin 17
  /-- STACK[0..15] (R19). -/
  stack : Vector Word 16
  /-- DT (R20). -/
  dt : Byte
  /-- ST (R21). -/
  st : Byte
  /-- FB (R23). -/
  fb : FrameBuffer
  /-- KEY[0..15], true = pressed (R24). -/
  keys : Vector Bool 16
  /-- Memory (R22): the bytes that differ from the reset contents, addresses strictly rising. -/
  mem : List Host.Cell
  /-- RUN_STATE (R16). -/
  runState : RunState
  /-- FAULT_KIND (R16): none is code 0. -/
  faultKind : Option Fault
  /-- FAULT_WORD (R16). -/
  faultWord : Word
  /-- FAULT_PC (R16). -/
  faultPc : Word
  /-- LOADED, the host-protocol bit (R28). -/
  loaded : Bool
  /-- The parameters of R5. The model's own field: fixed for a machine, never written. -/
  params : Params
  /-- How many entropy draws were taken. The model's own field: the index into `Config.entropy` (R83). -/
  draws : Nat
  deriving DecidableEq, Repr

/-- The state that RESET gives a machine with parameters `p` that has taken `n` draws (R126, R128). Memory lists
nothing: an unlisted address reads as its reset content. -/
def State.resetWith (p : Params) (n : Nat) : State where
  v := Vector.replicate 16 0
  index := 0
  pc := Config.pcReset
  sp := 0
  stack := Vector.replicate 16 0
  dt := 0
  st := 0
  fb := blankFb
  keys := Vector.replicate 16 false
  mem := []
  runState := .running
  faultKind := none
  faultWord := 0
  faultPc := 0
  loaded := false
  params := p
  draws := n

/-- The machine right after reset, with the default parameters of R5 (R126 to R128). The draw counter starts at 0:
DESIGN CHOICE, log entry 7. -/
def State.reset : State := State.resetWith defaultParams 0

end Sys2Proof.Machine
end

