-- ==== Sys2Proof/Machine/Ops.lean ====
section
/-! DEFINITION. The named operations over the state: memory, registers, PC, stack, frame buffer, keys, taking a fault,
committing a step, fetching. -/

namespace Sys2Proof.Machine

/-! ### Memory as data (R22, R29, R31) -/

/-- The reset content of an address, which is what an unlisted address reads as: FONT at 0x000..0x04F and 0x00
elsewhere (R31, R126). -/
def resetByte (font : Vector Byte 80) (a : Nat) : Byte :=
  if h : a < 80 then font[a] else 0

/-- The canonical form of memory over a reset content `d`: addresses strictly rising, all below 0x1000, no entry
equal to the reset content. -/
abbrev Memory.wf (d : Nat → Byte) (m : List Host.Cell) : Prop :=
  m.Pairwise (fun c e => c.1 < e.1) ∧ ∀ c ∈ m, c.1 < Config.memSize ∧ c.2 ≠ d c.1

/-- The byte at address `a`. -/
def Memory.read (d : Nat → Byte) : List Host.Cell → Nat → Byte
  | [], a => d a
  | (k, v) :: m, a => if k = a then v else Memory.read d m a

/-- Memory without an entry for address `a`. -/
def Memory.erase (m : List Host.Cell) (a : Nat) : List Host.Cell := m.filter (fun c => c.1 != a)

/-- Memory with a new entry for address `a`, before the first higher address. -/
def Memory.insert : List Host.Cell → Nat → Byte → List Host.Cell
  | [], a, b => [(a, b)]
  | (k, v) :: m, a, b => if k < a then (k, v) :: Memory.insert m a b else (a, b) :: (k, v) :: m

/-- Memory with byte `b` at address `a`: an entry that would say no more than the reset content is left out. -/
def Memory.write (d : Nat → Byte) (m : List Host.Cell) (a : Nat) (b : Byte) : List Host.Cell :=
  if b = d a then Memory.erase m a else Memory.insert (Memory.erase m a) a b

/-! ### The memory port (R30) -/

/-- `EffAddr` of R30, on the exact integer address. -/
def effAddr (p : OorPolicy) (a : Nat) : Except Fault Nat :=
  match p with
  | .mask => .ok (a % Config.memSize)
  | .fault => if a < Config.memSize then .ok a else .error .addressRange

/-- The byte a memory cell holds. -/
def State.cell (s : State) (a : Nat) : Byte := Memory.read (resetByte s.params.font) s.mem a

/-- The state with a memory cell written. -/
def State.setCell (s : State) (a : Nat) (b : Byte) : State :=
  { s with mem := Memory.write (resetByte s.params.font) s.mem a b }

/-- `MemRead(a, 1)` of R8 and R30. -/
def State.memRead (s : State) (a : Nat) : Except Fault Byte :=
  match effAddr s.params.oorPolicy a with
  | .ok e => .ok (s.cell e)
  | .error f => .error f

/-- `MemWrite(a, 1, b)` of R8 and R30. -/
def State.memWrite (s : State) (a : Nat) (b : Byte) : Except Fault State :=
  match effAddr s.params.oorPolicy a with
  | .ok e => .ok (s.setCell e b)
  | .error f => .error f

/-- The bytes at a, a + 1, ..., a + n − 1, read in that order; the first fault ends the reading (R36, R103). -/
def State.readBlock (s : State) (a : Nat) : Nat → Except Fault (List Byte)
  | 0 => .ok []
  | n + 1 =>
    match s.memRead a with
    | .error f => .error f
    | .ok b =>
      match s.readBlock (a + 1) n with
      | .error f => .error f
      | .ok bs => .ok (b :: bs)

/-- The bytes written at a, a + 1, ..., in that order; the first fault ends the writing (R36, R103). -/
def State.writeBlock (s : State) (a : Nat) : List Byte → Except Fault State
  | [] => .ok s
  | b :: bs =>
    match s.memWrite a b with
    | .error f => .error f
    | .ok t => t.writeBlock (a + 1) bs

/-! ### Registers, timers, I and PC -/

/-- `V[x]` (R8). -/
def State.reg (s : State) (x : Reg) : Byte := s.v.get x

/-- `V[x] <- b` (R8). -/
def State.setReg (s : State) (x : Reg) (b : Byte) : State := { s with v := s.v.set x b }

/-- V[k], V[k + 1], ... loaded from a list of bytes, as far as the register file goes (R98). -/
def State.setRegs (s : State) (k : Nat) : List Byte → State
  | [] => s
  | b :: bs => if h : k < 16 then (s.setReg ⟨k, h⟩ b).setRegs (k + 1) bs else s

/-- V[0], ..., V[x] (R97). -/
def State.regsUpTo (s : State) (x : Reg) : List Byte := s.v.toList.take (x.val + 1)

/-- `I <- a` (R8). -/
def State.setIndex (s : State) (a : Word) : State := { s with index := a }

/-- `DT <- b` (R92). -/
def State.setDt (s : State) (b : Byte) : State := { s with dt := b }

/-- `ST <- b` (R93). -/
def State.setSt (s : State) (b : Byte) : State := { s with st := b }

/-- `PC <- a` (R8). -/
def State.setPc (s : State) (a : Word) : State := { s with pc := a }

/-- The advance of the fetch: PC is pc0 + 2 mod 2^16 while the instruction executes (R46, R49). -/
def State.advance (s : State) : State := s.setPc (s.pc + 2)

/-- "Skip next instruction" under a condition (R62). -/
def State.skipIf (s : State) (c : Bool) : State := if c then s.setPc (s.pc + 2) else s

/-- The retreat of a waiting FX0A (R90). -/
def State.retreat (s : State) : State := s.setPc (s.pc - 2)

/-! ### The call stack (R18, R19, R105) -/

/-- `if SP = 16: raise STACK_OVERFLOW; STACK[SP] <- PC; SP <- SP + 1` (R61). -/
def State.pushPc (s : State) : Except Fault State :=
  if h : s.sp.val < 16 then
    .ok { s with stack := s.stack.set s.sp.val s.pc, sp := ⟨s.sp.val + 1, by omega⟩ }
  else .error .stackOverflow

/-- `if SP = 0: raise STACK_UNDERFLOW; SP <- SP - 1; PC <- STACK[SP]` (R59). The slot keeps its value (R19). -/
def State.popPc (s : State) : Except Fault State :=
  if h : 0 < s.sp.val then
    .ok { s with sp := ⟨s.sp.val - 1, by omega⟩, pc := s.stack.get ⟨s.sp.val - 1, by omega⟩ }
  else .error .stackUnderflow

/-! ### The frame buffer (R23, R113) -/

/-- `FB[px, py]` (R8). -/
def FrameBuffer.pixel (fb : FrameBuffer) (px : Fin 64) (py : Fin 32) : Bool := (fb.get py).getLsbD px.val

/-- `FB[px, py] <- not FB[px, py]` (R84). -/
def FrameBuffer.toggle (fb : FrameBuffer) (px : Fin 64) (py : Fin 32) : FrameBuffer :=
  fb.set py.val (fb.get py ^^^ BitVec.twoPow 64 px.val)

/-- The whole frame buffer replaced. -/
def State.setFb (s : State) (fb : FrameBuffer) : State := { s with fb := fb }

/-! ### Keys (R24) -/

/-- KEY[k]. -/
def State.key (s : State) (k : Fin 16) : Bool := s.keys.get k

/-- The key numbers in rising order. -/
def keyNumbers : List (Fin 16) := [0, 1, 2, 3, 4, 5, 6, 7, 8, 9, 10, 11, 12, 13, 14, 15]

/-- `min { k | KEY[k] = true }`, none when no key is pressed (R90). -/
def State.lowestKey (s : State) : Option (Fin 16) := keyNumbers.find? s.key

/-! ### Entropy (R83, R114) -/

/-- The draw the next CXNN takes. -/
def State.draw (s : State) : Byte := Config.entropy s.draws

/-- The draw is used up: each execution takes a fresh one. -/
def State.takeDraw (s : State) : State := { s with draws := s.draws + 1 }

/-! ### Faults (R100, R102) -/

/-- `raise Fault(f)` in a STEP that began in `s` and fetched `w` (0 when the fetch faulted): the fault registers are
set, and nothing the STEP computed is kept, so PC is still pc0 (R100). There is no handler and no return: only RESET
leaves FAULTED (R101, R104). -/
def State.takeFault (s : State) (f : Fault) (w : Word) : State :=
  { s with runState := .faulted, faultKind := some f, faultWord := w, faultPc := s.pc }

/-- The end of a STEP that began in `s` with word `w`: all of its writes, or the fault and none of them (R102). -/
def State.commit (s : State) (w : Word) (r : Except Fault State) : Host.Outcome State Fault Refusal :=
  match r with
  | .ok t => .next t
  | .error f => .next (s.takeFault f w)

/-- The code of FAULT_KIND (R99). -/
def Fault.code : Fault → Byte
  | .unimplementedOpcode => 1
  | .stackOverflow => 2
  | .stackUnderflow => 3
  | .keyIndexRange => 4
  | .addressRange => 5

/-- FAULT_KIND as the host reads it: 0 is NONE (R99). -/
def State.faultCode (s : State) : Byte :=
  match s.faultKind with
  | none => 0
  | some f => f.code

/-! ### The fetch (R34, R46, R48) -/

/-- The two bytes at PC and PC + 1, read in that order, as a big-endian word. PC + 1 is an exact integer (R30). -/
def State.fetchWord (s : State) : Except Fault Word :=
  match s.memRead s.pc.toNat with
  | .error f => .error f
  | .ok hi =>
    match s.memRead (s.pc.toNat + 1) with
    | .error f => .error f
    | .ok lo => .ok (wordOfBytes hi lo)

/-- A word placed where the fetch reads it under MASK: high byte at PC mod 0x1000, low byte at (PC + 1) mod 0x1000. -/
def State.placeWord (s : State) (w : Word) : State :=
  (s.setCell (s.pc.toNat % Config.memSize) (w.extractLsb' 8 8)).setCell
    ((s.pc.toNat + 1) % Config.memSize) (w.extractLsb' 0 8)

end Sys2Proof.Machine
end

