-- ==== Sys2Proof/Machine/Flags.lean ====
section
/-! DEFINITION. Every flag computation (R11, R69, R74–R78) and the orders in which an instruction writes its result
and VF. -/

namespace Sys2Proof.Machine

/-- A comparison written into a register: 1 for true, 0 for false (R7). -/
def flagByte (c : Bool) : Byte := if c then 1 else 0

/-- The carry of a + b out of bit 7, on the exact sum (R74). -/
def carry (a b : Byte) : Bool := decide (a.toNat + b.toNat > 0xFF)

/-- No borrow in a − b: a ≥ b, unsigned (R75, R77). -/
def noBorrow (a b : Byte) : Bool := decide (a.toNat ≥ b.toNat)

/-- The bit 8XY6 shifts out (R76). -/
def lowBit (a : Byte) : Bool := a.getLsbD 0

/-- The bit 8XYE shifts out (R78). -/
def highBit (a : Byte) : Bool := a.getLsbD 7

/-- 8XY4, 8XY5 and 8XY7: the result, then VF, so with destination VF the flag stays (R69). -/
def State.resultThenFlag (s : State) (dest : Reg) (r : Byte) (flag : Bool) : State :=
  (s.setReg dest r).setReg vf (flagByte flag)

/-- VF, then the result, so with destination VF the result stays (R69). -/
def State.flagThenResult (s : State) (dest : Reg) (r : Byte) (flag : Bool) : State :=
  (s.setReg vf (flagByte flag)).setReg dest r

/-- 8XY6 and 8XYE: the two writes in the order SHIFT_VF_ORDER gives (R69, R76, R78). -/
def State.shiftWrite (s : State) (dest : Reg) (r : Byte) (flag : Bool) : State :=
  match s.params.shiftVfOrder with
  | .flagThenResult => s.flagThenResult dest r flag
  | .resultThenFlag => s.resultThenFlag dest r flag

end Sys2Proof.Machine
end

