-- ==== Sys2Proof/Machine/Operands.lean ====
section
/-! DEFINITION. The operand forms: zero extension of immediates and registers (R45), the key index (R87), the memory
operand at I (R94–R98), the sprite origin (R84), the glyph address (R95), the decimal digits (R96). -/

namespace Sys2Proof.Machine

/-- `zext_16(NNN)` (R45). -/
def zextAddr (nnn : Addr12) : Word := nnn.setWidth 16

/-- `zext_16(V[x])` (R45). -/
def zextByte (b : Byte) : Word := b.setWidth 16

/-- The low four bits of a byte, as a key number or a digit. -/
def lowNibble (b : Byte) : Fin 16 := (b.extractLsb' 0 4).toFin

/-- A four-bit number as a byte: the key index FX0A writes (R90). -/
def byteOfNibble (k : Fin 16) : Byte := BitVec.ofNat 8 k.val

/-- `KeyIndex(v)` of R87. For v at most 0xF the low nibble is v itself. -/
def keyIndex (p : KeyIndexPolicy) (v : Byte) : Except Fault (Fin 16) :=
  if v ≤ 0xF then .ok (lowNibble v)
  else
    match p with
    | .fault => .error .keyIndexRange
    | .maskLowNibble => .ok (lowNibble v)

/-- I as the exact integer that data addresses are computed from: I + k is not wrapped (R30). -/
def State.dataBase (s : State) : Nat := s.index.toNat

/-- The origin column of DXYN, `V[x] mod 64` (R84). -/
def State.originX (s : State) (x : Reg) : Nat := (s.reg x).toNat % 64

/-- The origin row of DXYN, `V[y] mod 32` (R84). -/
def State.originY (s : State) (y : Reg) : Nat := (s.reg y).toNat % 32

/-- The glyph address of FX29: Vx·5, or (Vx & 0xF)·5 under FONT_DIGIT_MASK (R95). -/
def glyphAddr (digitMask : Bool) (v : Byte) : Word :=
  if digitMask then zextByte (v &&& 0xF) * 5 else zextByte v * 5

/-- The decimal hundreds, tens and ones of a byte (R96). -/
def bcdDigits (v : Byte) : List Byte := [v / 100, (v / 10) % 10, v % 10]

end Sys2Proof.Machine
end

