-- ==== Sys2Proof/Machine/Draw.lean ====
section
/-! DEFINITION. Family D: the sprite rasterizer (46_draw.md). -/

namespace Sys2Proof.Machine

/-- A frame buffer under drawing, with the collision found so far. -/
structure Canvas where
  fb : FrameBuffer
  coll : Bool
  deriving DecidableEq, Repr

/-- A set sprite bit at (px, py): a pixel that was on collides, and the pixel toggles (R84). -/
def Canvas.plot (d : Canvas) (px : Fin 64) (py : Fin 32) : Canvas :=
  { fb := d.fb.toggle px py, coll := d.coll || d.fb.pixel px py }

/-- The columns of a sprite byte, from the left (R85). -/
def spriteColumns : List Nat := [0, 1, 2, 3, 4, 5, 6, 7]

/-- Bit 7 − c of a sprite byte is its column c (R85). -/
def spriteBit (row : Byte) (c : Nat) : Bool := row.getLsbD (7 - c)

/-- `px <- (x0 + c) mod 64` (R84). -/
def wrapColumn (x0 c : Nat) : Fin 64 := ⟨(x0 + c) % 64, Nat.mod_lt _ (by omega)⟩

/-- `py <- (y0 + r) mod 32` (R84). -/
def wrapRow (y0 r : Nat) : Fin 32 := ⟨(y0 + r) % 32, Nat.mod_lt _ (by omega)⟩

/-- Column c of a row whose origin column is x0: each pixel wraps on its own, and a clear bit does nothing (R84, R86). -/
def Canvas.plotColumn (x0 : Nat) (py : Fin 32) (row : Byte) (d : Canvas) (c : Nat) : Canvas :=
  if spriteBit row c then d.plot (wrapColumn x0 c) py else d

/-- One sprite row at frame-buffer row py. -/
def Canvas.plotRow (d : Canvas) (x0 : Nat) (py : Fin 32) (row : Byte) : Canvas :=
  spriteColumns.foldl (Canvas.plotColumn x0 py row) d

/-- The sprite rows r, r + 1, ... with origin (x0, y0), each row wrapping on its own (R84, R85). -/
def Canvas.plotRows (d : Canvas) (x0 y0 r : Nat) : List Byte → Canvas
  | [] => d
  | row :: rows => (d.plotRow x0 (wrapRow y0 r) row).plotRows x0 y0 (r + 1) rows

/-- A whole sprite drawn on a frame buffer. -/
def drawSprite (fb : FrameBuffer) (x0 y0 : Nat) (rows : List Byte) : Canvas :=
  Canvas.plotRows { fb := fb, coll := false } x0 y0 0 rows

/-- The frame buffer and VF after a draw (R84). -/
def State.setCanvas (s : State) (d : Canvas) : State := (s.setFb d.fb).setReg vf (flagByte d.coll)

/-- DRW Vx, Vy, n (R84 to R86): the rows are read before anything is written, and the origin comes from the old
registers. -/
def execDrw (x y : Reg) (n : Fin 16) (s : State) : Host.Outcome State Fault Refusal :=
  s.commit (encode (.drw x y n))
    ((s.readBlock s.dataBase n.val).map
      (fun rows => s.advance.setCanvas (drawSprite s.fb (s.originX x) (s.originY y) rows)))

end Sys2Proof.Machine
end

