-- ==== Sys2Proof/Machine/Immediate.lean ====
section
/-! DEFINITION. Families 6 and 7: load and add immediate (43_immediate.md). -/

namespace Sys2Proof.Machine

/-- LD Vx, byte (R67). -/
def execLdByte (x : Reg) (nn : Byte) (s : State) : Host.Outcome State Fault Refusal :=
  .next (s.advance.setReg x nn)

/-- ADD Vx, byte (R68): modulo 2^8, no flag. -/
def execAddByte (x : Reg) (nn : Byte) (s : State) : Host.Outcome State Fault Refusal :=
  .next (s.advance.setReg x (s.reg x + nn))

end Sys2Proof.Machine
end

