-- ==== Sys2Proof/Machine/IndexJumpRandom.lean ====
section
/-! DEFINITION. Families A, B and C: load index, jump with offset, random (45_index_jump_random.md). -/

namespace Sys2Proof.Machine

/-- LD I, addr (R81). -/
def execLdI (nnn : Addr12) (s : State) : Host.Outcome State Fault Refusal :=
  .next (s.advance.setIndex (zextAddr nnn))

/-- JP V0, addr (R82). The sum is at most 0x10FE, so 16 bits hold it unwrapped. -/
def execJpV0 (nnn : Addr12) (s : State) : Host.Outcome State Fault Refusal :=
  .next (s.advance.setPc (zextByte (s.reg 0) + zextAddr nnn))

/-- RND Vx, byte (R83): a fresh free draw, masked by NN. -/
def execRnd (x : Reg) (nn : Byte) (s : State) : Host.Outcome State Fault Refusal :=
  .next (s.advance.takeDraw.setReg x (s.draw &&& nn))

end Sys2Proof.Machine
end

