-- ==== Sys2Proof/Machine/IndexMemory.lean ====
section
/-! DEFINITION. The index and memory instructions FX1E, FX29, FX33, FX55 and FX65 (49_index_memory.md). -/

namespace Sys2Proof.Machine

/-- ADD I, Vx (R94): modulo 2^16, no flag. -/
def execAddIVx (x : Reg) (s : State) : Host.Outcome State Fault Refusal :=
  .next (s.advance.setIndex (s.index + zextByte (s.reg x)))

/-- LD F, Vx (R95). -/
def execLdFVx (x : Reg) (s : State) : Host.Outcome State Fault Refusal :=
  .next (s.advance.setIndex (glyphAddr s.params.fontDigitMask (s.reg x)))

/-- LD B, Vx (R96): the decimal digits at I, I + 1, I + 2. -/
def execLdBVx (x : Reg) (s : State) : Host.Outcome State Fault Refusal :=
  s.commit (encode (.ldBVx x)) (s.advance.writeBlock s.dataBase (bcdDigits (s.reg x)))

/-- LD [I], Vx (R97): V0 to Vx at I, I + 1, ...; I is kept. -/
def execLdMemVx (x : Reg) (s : State) : Host.Outcome State Fault Refusal :=
  s.commit (encode (.ldMemVx x)) (s.advance.writeBlock s.dataBase (s.regsUpTo x))

/-- LD Vx, [I] (R98): V0 to Vx from I, I + 1, ...; I is kept. -/
def execLdVxMem (x : Reg) (s : State) : Host.Outcome State Fault Refusal :=
  s.commit (encode (.ldVxMem x))
    ((s.readBlock s.dataBase (x.val + 1)).map (fun bs => s.advance.setRegs 0 bs))

end Sys2Proof.Machine
end

