-- ==== Sys2Proof/Machine/Jump.lean ====
section
/-! DEFINITION. Families 1 and 2: JP and CALL (41_jump_call.md). -/

namespace Sys2Proof.Machine

/-- JP addr (R60). -/
def execJp (nnn : Addr12) (s : State) : Host.Outcome State Fault Refusal := .next (s.advance.setPc (zextAddr nnn))

/-- CALL addr (R61): pushes the advanced PC, then jumps. -/
def execCall (nnn : Addr12) (s : State) : Host.Outcome State Fault Refusal :=
  s.commit (encode (.call nnn)) (s.advance.pushPc.map (fun t => t.setPc (zextAddr nnn)))

end Sys2Proof.Machine
end

