-- ==== Sys2Proof/Machine/Keypad.lean ====
section
/-! DEFINITION. The keypad instructions EX9E, EXA1 and FX0A (47_keypad.md). -/

namespace Sys2Proof.Machine

/-- SKP Vx (R88). -/
def execSkp (x : Reg) (s : State) : Host.Outcome State Fault Refusal :=
  s.commit (encode (.skp x))
    ((keyIndex s.params.keyIndexPolicy (s.reg x)).map (fun k => s.advance.skipIf (s.key k)))

/-- SKNP Vx (R89). -/
def execSknp (x : Reg) (s : State) : Host.Outcome State Fault Refusal :=
  s.commit (encode (.sknp x))
    ((keyIndex s.params.keyIndexPolicy (s.reg x)).map (fun k => s.advance.skipIf (!s.key k)))

/-- LD Vx, K (R90): the lowest pressed key, or back to this instruction. -/
def execLdVxK (x : Reg) (s : State) : Host.Outcome State Fault Refusal :=
  match s.lowestKey with
  | some k => .next (s.advance.setReg x (byteOfNibble k))
  | none => .next s.advance.retreat

end Sys2Proof.Machine
end

