-- ==== Sys2Proof/Machine/System.lean ====
section
/-! DEFINITION. Family 0: NOP, CLS, RET (40_system.md). Each meaning is the whole STEP of its instruction, from the
state before the fetch. -/

namespace Sys2Proof.Machine

/-- NOP (R57). -/
def execNop (s : State) : Host.Outcome State Fault Refusal := .next s.advance

/-- CLS (R58): every pixel false. -/
def execCls (s : State) : Host.Outcome State Fault Refusal := .next (s.advance.setFb blankFb)

/-- RET (R59). -/
def execRet (s : State) : Host.Outcome State Fault Refusal := s.commit (encode .ret) s.advance.popPc

end Sys2Proof.Machine
end

