-- ==== Sys2Proof/Machine/Timer.lean ====
section
/-! DEFINITION. The timer instructions FX07, FX15 and FX18 (48_timer_instr.md). -/

namespace Sys2Proof.Machine

/-- LD Vx, DT (R91). -/
def execLdVxDt (x : Reg) (s : State) : Host.Outcome State Fault Refusal :=
  .next (s.advance.setReg x s.dt)

/-- LD DT, Vx (R92). -/
def execLdDtVx (x : Reg) (s : State) : Host.Outcome State Fault Refusal :=
  .next (s.advance.setDt (s.reg x))

/-- LD ST, Vx (R93). -/
def execLdStVx (x : Reg) (s : State) : Host.Outcome State Fault Refusal :=
  .next (s.advance.setSt (s.reg x))

end Sys2Proof.Machine
end

