-- ==== Sys2Proof/Machine/Step.lean ====
section
/-! DEFINITION. STEP (R46), and the host's way to place one instruction. -/

namespace Sys2Proof.Machine

/-- STEP, one fetch-decode-execute cycle (R46). Without a LOAD there is no move (R118). While FAULTED it has no effect
(R101); the order of these two checks is DEDUCED, log entry 12. A fetch fault comes before a decode fault, and that before the instruction's own (R103). -/
def step (s : State) : Host.Outcome State Fault Refusal :=
  match s.loaded with
  | false => .refused .stepBeforeLoad
  | true =>
    match s.runState with
    | .faulted => .next s
    | .running =>
      match s.fetchWord with
      | .error f => .next (s.takeFault f 0)
      | .ok w =>
        match decodeWord w with
        | .error _ => .next (s.takeFault .unimplementedOpcode w)
        | .ok i => exec i s

/-- The state with the opcode-table word `w` where `step` fetches next. The host's LOAD is part of what a first
instruction takes, so LOADED is set and RUN_STATE is RUNNING (R118, R101); nothing else changes. DESIGN CHOICE, log entries 8 and 13. -/
def State.withFetchWord (s : State) (nbits w : Nat) : State :=
  { s.placeWord (BitVec.ofNat 16 (w % 2 ^ nbits)) with loaded := true, runState := .running }

end Sys2Proof.Machine
end

