-- ==== Sys2Proof/Machine/HostOps.lean ====
section
/-! DEFINITION. The host operations of R115, each atomic, and their interleavings. -/

namespace Sys2Proof.Machine

/-- The operations a host issues (R9, R115). -/
inductive HostOp where
  | reset
  | load (bytes : List Byte)
  | step
  | tick
  | setKey (k : Fin 16) (p : Bool)
  | readFb
  | readSt
  | readFault
  deriving DecidableEq, Repr

/-- What the host gets back (R115). -/
inductive Reply where
  /-- RESET, STEP and SET_KEY return nothing. -/
  | none
  /-- LOAD: OK. -/
  | loadOk
  /-- LOAD: LOAD_OVERFLOW (R117). -/
  | loadOverflow
  /-- TICK: SOUND_STOP (R110). -/
  | soundStop (b : Bool)
  /-- READ_FB: 2048 Booleans, index px + 64·py (R120). -/
  | frame (pixels : List Bool)
  /-- READ_ST (R121). -/
  | sound (st : Byte)
  /-- READ_FAULT: RUN_STATE, FAULT_KIND, FAULT_WORD, FAULT_PC (R122). -/
  | fault (run : RunState) (kind : Byte) (word pc : Word)
  deriving DecidableEq, Repr

/-- RESET (R126). The parameters stay, for they are fixed for a machine, and so does the draw counter, so that the
draws after it are fresh (R83). -/
def State.resetOp (s : State) : State := State.resetWith s.params s.draws

/-- The image copied byte by byte from address a up (R117). -/
def State.copyImage (s : State) (a : Nat) : List Byte → State
  | [] => s
  | b :: bs => (s.setCell a b).copyImage (a + 1) bs

/-- LOAD has run since the last RESET (R28). -/
def State.setLoaded (s : State) : State := { s with loaded := true }

/-- One timer tick: down by one, stopping at zero (R109). -/
def timerDown (b : Byte) : Byte := if b = 0 then 0 else b - 1

/-- TICK (R109). -/
def State.tick (s : State) : State := { s with dt := timerDown s.dt, st := timerDown s.st }

/-- SOUND_STOP of a TICK issued in `s`: ST was 1 before it (R110). -/
def State.soundStop (s : State) : Bool := s.st == 1

/-- SET_KEY(k, p) (R119). -/
def State.setKey (s : State) (k : Fin 16) (p : Bool) : State := { s with keys := s.keys.set k p }

/-- READ_FB (R120). -/
def State.readFb (s : State) : List Bool :=
  (List.range 2048).map (fun n => s.fb.pixel ⟨n % 64, Nat.mod_lt _ (by omega)⟩ ⟨n / 64 % 32, Nat.mod_lt _ (by omega)⟩)

/-- One host operation (R115; that the operations other than STEP stand beside `step` is a DESIGN CHOICE, log entry
11): the state after it and what the host gets back, or no move where the host breaks a duty
(R118). -/
def hostOp (op : HostOp) (s : State) : Host.Outcome (State × Reply) Fault Refusal :=
  match op with
  | .reset => .next (s.resetOp, .none)
  | .load bytes =>
    if s.loaded then .refused .loadWithoutReset
    else if imageFits bytes then .next ((s.copyImage Config.programBase bytes).setLoaded, .loadOk)
    else .next (s, .loadOverflow)
  | .step =>
    match step s with
    | .next t => .next (t, .none)
    | .fault f => .fault f
    | .refused r => .refused r
  | .tick => .next (s.tick, .soundStop s.soundStop)
  | .setKey k p => .next (s.setKey k p, .none)
  | .readFb => .next (s, .frame s.readFb)
  | .readSt => .next (s, .sound s.st)
  | .readFault => .next (s, .fault s.runState s.faultCode s.faultWord s.faultPc)

/-- A schedule, any interleaving of host operations (R111, R115, D25): the state after it, or the first stop. -/
def runOps : List HostOp → State → Host.Outcome State Fault Refusal
  | [], s => .next s
  | op :: ops, s =>
    match hostOp op s with
    | .next (t, _) => runOps ops t
    | .fault f => .fault f
    | .refused r => .refused r

end Sys2Proof.Machine
end

