-- ==== Sys2Proof/Safety.lean ====
section
/-! DEFINITION. What counts as a good state and a safe run, in the terms the statements use. -/

namespace Sys2Proof.Machine

/-- Memory is in its canonical form. -/
abbrev State.memoryCanonical (s : State) : Prop := Memory.wf (resetByte s.params.font) s.mem

/-- RUN_STATE and the fault registers agree (R99, R100, R102): RUNNING means no fault is recorded and the registers
hold their cleared values; FAULTED means a kind is recorded, a program was loaded, and PC is FAULT_PC. -/
abbrev State.faultReportConsistent (s : State) : Prop :=
  (s.runState = .running → s.faultKind = none ∧ s.faultWord = 0 ∧ s.faultPc = 0) ∧
  (s.runState = .faulted → s.faultKind ≠ none ∧ s.loaded = true ∧ s.pc = s.faultPc)

/-- A recorded fault is one the parameters allow (R99): code 4 only under KEY_INDEX_POLICY = FAULT, code 5 only under
OOR_POLICY = FAULT. -/
abbrev State.faultKindAllowed (s : State) : Prop :=
  (s.faultKind = some .keyIndexRange → s.params.keyIndexPolicy = .fault) ∧
  (s.faultKind = some .addressRange → s.params.oorPolicy = .fault)

/-- The invariant of the machine. -/
abbrev State.Inv (s : State) : Prop :=
  s.memoryCanonical ∧ s.faultReportConsistent ∧ s.faultKindAllowed

/-- A safe state: no fault has been taken since the last RESET (R101). -/
abbrev State.safe (s : State) : Prop := s.runState = .running

/-- The state is reached from a freshly made machine with parameters `p` by some schedule of host operations. -/
abbrev State.reachable (p : Params) (s : State) : Prop := ∃ ops, runOps ops (State.resetWith p 0) = .next s

/-- An access to `n` bytes from the exact address `a` raises no fault (R30): always under MASK, and under FAULT when
every address is below 0x1000. -/
abbrev accessOk (p : OorPolicy) (a n : Nat) : Prop := p = .mask ∨ n = 0 ∨ a + n ≤ Config.memSize

/-- The cell an access address reaches when it raises no fault (R30). -/
abbrev reach (a : Nat) : Nat := a % Config.memSize

/-- The word of format ADDR read as a number: opcode, NNN (R44). -/
abbrev addrWord (op : Nat) (nnn : Addr12) : Word := BitVec.ofNat 16 (op * 0x1000 + nnn.toNat)

/-- The word of format XNN read as a number: opcode, x, NN (R44). -/
abbrev xnnWord (op : Nat) (x : Reg) (nn : Byte) : Word := BitVec.ofNat 16 (op * 0x1000 + x.val * 0x100 + nn.toNat)

/-- The word of formats XY and XYN read as a number: opcode, x, y, four bits (R44). -/
abbrev xynWord (op : Nat) (x y : Reg) (n : Fin 16) : Word :=
  BitVec.ofNat 16 (op * 0x1000 + x.val * 0x100 + y.val * 0x10 + n.val)

/-- The instruction completes, writes the register file as `f` says, moves PC past itself, and changes nothing else. -/
abbrev WritesRegs (i : Instr) (s : State) (f : Reg → Byte) : Prop :=
  ∃ vs : Vector Byte 16, exec i s = .next { s with v := vs, pc := s.pc + 2 } ∧ ∀ r, vs.get r = f r

/-- The instruction takes the fault `f` and changes nothing but RUN_STATE and the fault registers (R100, R102). -/
abbrev TakesFault (i : Instr) (s : State) (f : Fault) : Prop :=
  exec i s = .next { s with runState := .faulted, faultKind := some f, faultWord := encode i, faultPc := s.pc }

/-- From `s` the fault `f` was taken and `t` left: RUN_STATE and the fault registers changed and nothing else (R100).
What FAULT_WORD holds is said elsewhere. -/
abbrev State.tookFault (s t : State) (f : Fault) : Prop :=
  t = { s with runState := .faulted, faultKind := some f, faultWord := t.faultWord, faultPc := s.pc }

/-- The column "raised by" of R99 for instructions: `i` can raise `f`. -/
abbrev mayRaise (i : Instr) (f : Fault) : Prop :=
  (i = .ret ∧ f = .stackUnderflow) ∨ ((∃ nnn, i = .call nnn) ∧ f = .stackOverflow) ∨
  ((∃ x, i = .skp x ∨ i = .sknp x) ∧ f = .keyIndexRange) ∨
  (((∃ x y n, i = .drw x y n) ∨ ∃ x, i = .ldBVx x ∨ i = .ldMemVx x ∨ i = .ldVxMem x) ∧ f = .addressRange)

/-- R12's column "writes" for the general registers: `i` names `r` as a destination, or `r` is VF and `i` writes a
flag. -/
abbrev mayWriteReg (i : Instr) (r : Reg) : Prop :=
  (∃ nn, i = .ldByte r nn ∨ i = .addByte r nn ∨ i = .rnd r nn) ∨
  (∃ y, i = .ldReg r y ∨ i = .or r y ∨ i = .and r y ∨ i = .xor r y ∨ i = .addReg r y ∨ i = .sub r y ∨ i = .shr r y ∨
    i = .shl r y) ∨
  (∃ x, i = .subn x r) ∨ i = .ldVxDt r ∨ i = .ldVxK r ∨ (∃ x, r ≤ x ∧ i = .ldVxMem x) ∨
  (r = vf ∧ ((∃ x y, i = .addReg x y ∨ i = .sub x y ∨ i = .subn x y ∨ i = .shr x y ∨ i = .shl x y) ∨
    ∃ x y n, i = .drw x y n))

/-- The conditional skips of R62, R88 and R89. -/
abbrev isSkip (i : Instr) : Prop :=
  (∃ x nn, i = .seByte x nn ∨ i = .sneByte x nn) ∨ (∃ x y, i = .seReg x y ∨ i = .sneReg x y) ∨
  ∃ x, i = .skp x ∨ i = .sknp x

end Sys2Proof.Machine
end

