-- ==== Sys2Proof/Certificates/Slice0/Obligations.lean ====
section
/-! DEFINITION. The statements for the provers, from the numbered rules of spec/. -/

open Sys2Proof Sys2Proof.Machine

/-! ### Encoding -/

/-- R50, R52: the decoder reads every instruction back from its word, with every operand. -/
def Obligations.DecodeOfEncodeIsIdentity : Prop := ∀ i : Instr, decodeWord (encode i) = .ok i

/-- R50, R52, R55: a decoded instruction still determines its word, the don't-care field of SHR and SHL included. -/
def Obligations.EncodeOfDecodeIsWord : Prop := ∀ (w : Word) (i : Instr), decodeWord w = .ok i → encode i = w

/-- R50, R52: the table has 35 rows, no two of which cover a common word; the decoder accepts exactly the words that
a row covers, and the instruction it reads stands in a row that covers the word. -/
def Obligations.DecodeAcceptsExactlyTheTable : Prop :=
  opTable.length = 35 ∧ (∀ r ∈ opTable, r.wf) ∧ opTable.Pairwise OpRow.apart ∧ ∀ w : Word,
    ((∃ i, decodeWord w = .ok i) ↔ ∃ r ∈ opTable, r.covers w) ∧
    ∀ i, decodeWord w = .ok i → i.row ∈ opTable ∧ i.row.covers w

/-- R53: the UNIMPLEMENTED words, family by family as the rule lists them. -/
def Obligations.UnimplementedWordsByFamily : Prop := ∀ w : Word,
  decodeWord w = .error (.unimplemented w) ↔
    (w.toNat / 0x1000 = 0x0 ∧ w.toNat ≠ 0x0000 ∧ w.toNat ≠ 0x00E0 ∧ w.toNat ≠ 0x00EE) ∨
    (w.toNat / 0x1000 = 0x5 ∧ w.toNat % 0x10 ≠ 0) ∨
    (w.toNat / 0x1000 = 0x8 ∧ w.toNat % 0x10 ∈ [0x8, 0x9, 0xA, 0xB, 0xC, 0xD, 0xF]) ∨
    (w.toNat / 0x1000 = 0x9 ∧ w.toNat % 0x10 ≠ 0) ∨
    (w.toNat / 0x1000 = 0xE ∧ w.toNat % 0x100 ∉ [0x9E, 0xA1]) ∨
    (w.toNat / 0x1000 = 0xF ∧
      w.toNat % 0x100 ∉ [0x07, 0x0A, 0x15, 0x18, 0x1E, 0x29, 0x33, 0x55, 0x65])

/-- R42, R34: the stream decoder takes exactly two bytes, the first the high one, and fails on a shorter stream. -/
def Obligations.StreamDecodeTakesTwoBytes : Prop :=
  (∀ (hi lo : Byte) (rest : List Byte) (i : Instr), decodeWord (hi ++ lo) = .ok i →
    decode (hi :: lo :: rest) = .ok (i, rest)) ∧
  (∀ bytes : List Byte, bytes.length < 2 → decode bytes = .error .truncated)

/-- R52: words written out from the patterns, one for each n1. -/
def Obligations.SampleWordsDecode : Prop :=
  decodeWord 0x00EE = .ok .ret ∧ decodeWord 0x1234 = .ok (.jp 0x234) ∧ decodeWord 0x220A = .ok (.call 0x20A) ∧
  decodeWord 0x3342 = .ok (.seByte 3 0x42) ∧ decodeWord 0x4342 = .ok (.sneByte 3 0x42) ∧
  decodeWord 0x5120 = .ok (.seReg 1 2) ∧ decodeWord 0x600A = .ok (.ldByte 0 0x0A) ∧
  decodeWord 0x7203 = .ok (.addByte 2 0x03) ∧ decodeWord 0x8017 = .ok (.subn 0 1) ∧
  decodeWord 0x9120 = .ok (.sneReg 1 2) ∧ decodeWord 0xA300 = .ok (.ldI 0x300) ∧
  decodeWord 0xB520 = .ok (.jpV0 0x520) ∧ decodeWord 0xC30F = .ok (.rnd 3 0x0F) ∧
  decodeWord 0xD015 = .ok (.drw 0 1 5) ∧ decodeWord 0xE59E = .ok (.skp 5) ∧ decodeWord 0xF265 = .ok (.ldVxMem 2)

/-! ### The step -/

/-- R46: while RUNNING with a program loaded, a STEP whose fetched word decodes to i is the execution of i. `exec`
itself moves PC past the instruction's word (R49); `step` adds nothing. -/
def Obligations.StepRunsDecodedInstruction : Prop := ∀ (s : State) (w : Word) (i : Instr),
  s.loaded = true → s.runState = .running → s.fetchWord = .ok w → decodeWord w = .ok i → step s = exec i s

/-- R30, R34, R48: the fetched word is the byte PC reaches, then the byte PC + 1 reaches, big-endian; under
OOR_POLICY = FAULT a byte address of 0x1000 or above is ADDRESS_RANGE instead. -/
def Obligations.FetchReadsBigEndianWord : Prop := ∀ s : State,
  (accessOk s.params.oorPolicy s.pc.toNat 2 → s.fetchWord =
    .ok (s.cell (s.pc.toNat % 0x1000) ++ s.cell ((s.pc.toNat + 1) % 0x1000))) ∧
  (s.params.oorPolicy = .fault → 0x1000 ≤ s.pc.toNat + 1 → s.fetchWord = .error .addressRange)

/-- R46, R99, R100: a fetch fault is taken with FAULT_WORD 0 and FAULT_PC pc0, and changes nothing else. -/
def Obligations.FetchFaultIsTaken : Prop := ∀ (s : State),
  s.loaded = true → s.runState = .running → s.params.oorPolicy = .fault → 0x1000 ≤ s.pc.toNat + 1 →
  step s = .next { s with runState := .faulted, faultKind := some .addressRange, faultWord := 0, faultPc := s.pc }

/-- R46, R53, R100: a word that matches no pattern is taken as UNIMPLEMENTED_OPCODE, and nothing else changes. -/
def Obligations.UnimplementedWordFaults : Prop := ∀ (s : State) (w : Word),
  s.loaded = true → s.runState = .running → s.fetchWord = .ok w → decodeWord w = .error (.unimplemented w) →
  step s = .next { s with
    runState := .faulted, faultKind := some .unimplementedOpcode, faultWord := w, faultPc := s.pc }

/-- R101: while FAULTED a STEP has no effect. The premise is an invariant (`Obligations.StepKeepsInvariant`,
`Obligations.HostOperationsKeepInvariant`): a machine is FAULTED only with a program loaded. -/
def Obligations.FaultedStepHasNoEffect : Prop := ∀ s : State,
  s.faultReportConsistent → s.runState = .faulted → step s = .next s

/-- R118: no move for a STEP before LOAD, nor for a LOAD that no RESET came before. That no move is a refusal is the
model's form, log entry 8. -/
def Obligations.HostDutiesHaveNoMove : Prop := ∀ s : State,
  (s.loaded = false → step s = .refused .stepBeforeLoad) ∧
  (s.loaded = true → ∀ bytes, hostOp (.load bytes) s = .refused .loadWithoutReset)

/-- R46, R53, R100: with a program loaded every STEP answers a next state: no instruction, word, address or operand
stops the machine. -/
def Obligations.LoadedStepAlwaysAnswers : Prop := ∀ s : State, s.loaded = true → ∃ t, step s = .next t

/-- R100, R102: a STEP of a RUNNING machine that ends FAULTED changes nothing but RUN_STATE and the fault registers;
FAULT_PC is pc0, and FAULT_WORD is the fetched word, or 0 when the fetch itself faulted. -/
def Obligations.FaultingStepCommitsNothing : Prop := ∀ s t : State,
  s.runState = .running → step s = .next t → t.runState = .faulted →
  ∃ f : Fault, t = { s with runState := .faulted, faultKind := some f, faultWord := t.faultWord, faultPc := s.pc } ∧
    match s.fetchWord with
    | .ok w => t.faultWord = w
    | .error g => t.faultWord = 0 ∧ f = g

/-- R38, R40: a memory write at address a changes memory only, and there only the cell a reaches. Every address that
reaches that cell reads as the new byte through the memory port, unless the port faults it, and a fetch sees the byte as
the high byte of its word when PC reaches the cell and as the low byte when PC + 1 does. -/
def Obligations.WriteIsSeenByReadAndFetch : Prop := ∀ (s t : State) (a : Nat) (b : Byte),
  s.memWrite a b = .ok t →
  t = { s with mem := t.mem } ∧ t.cell (a % 0x1000) = b ∧ (∀ c, c ≠ a % 0x1000 → t.cell c = s.cell c) ∧
  (∀ c, c % 0x1000 = a % 0x1000 → accessOk t.params.oorPolicy c 1 → t.memRead c = .ok b) ∧
  ∀ w p : Word, { t with pc := p }.fetchWord = .ok w →
    (p.toNat % 0x1000 = a % 0x1000 → w.extractLsb' 8 8 = b) ∧
    ((p.toNat + 1) % 0x1000 = a % 0x1000 → w.extractLsb' 0 8 = b)

/-! ### Whole-machine rules -/

/-- R12, R13, R16 to R24, R47, R49, R99, R100: what each piece of state is written by. Whatever the instruction, a
general register that changes is one R12 lets it write; PC ends at pc0 + 2 but for the jumps, the skips, FX0A and a taken
fault; RUN_STATE and the fault registers change only where the instruction takes a fault it can raise; and any other
field that changes was changed by one of the instructions named, the keys and LOADED by none. The clause on the draw
counter is about the model's own field, log entry 7, and so is the one on the parameters, log entry 1. -/
def Obligations.OnlyNamedInstructionsWriteEachField : Prop := ∀ (i : Instr) (s t : State), exec i s = .next t →
  (∀ r, t.reg r ≠ s.reg r → mayWriteReg i r) ∧
  (t.pc ≠ s.pc + 2 →
    (i = .ret ∨ ∃ nnn, i = .jp nnn ∨ i = .call nnn ∨ i = .jpV0 nnn) ∨ (isSkip i ∧ t.pc = s.pc + 4) ∨
    ((∃ x, i = .ldVxK x) ∧ t.pc = s.pc) ∨ ∃ f, mayRaise i f ∧ s.tookFault t f) ∧
  (t.runState ≠ s.runState ∨ t.faultKind ≠ s.faultKind ∨ t.faultWord ≠ s.faultWord ∨ t.faultPc ≠ s.faultPc →
    ∃ f, mayRaise i f ∧ s.tookFault t f) ∧
  (t.stack ≠ s.stack → ∃ nnn, i = .call nnn) ∧
  (t.sp ≠ s.sp → i = .ret ∨ ∃ nnn, i = .call nnn) ∧
  (t.index ≠ s.index → (∃ nnn, i = .ldI nnn) ∨ (∃ x, i = .addIVx x) ∨ ∃ x, i = .ldFVx x) ∧
  (t.dt ≠ s.dt → ∃ x, i = .ldDtVx x) ∧
  (t.st ≠ s.st → ∃ x, i = .ldStVx x) ∧
  (t.fb ≠ s.fb → i = .cls ∨ ∃ x y n, i = .drw x y n) ∧
  (t.mem ≠ s.mem → (∃ x, i = .ldBVx x) ∨ ∃ x, i = .ldMemVx x) ∧
  (t.draws ≠ s.draws → ∃ x nn, i = .rnd x nn) ∧
  t.keys = s.keys ∧ t.loaded = s.loaded ∧ t.params = s.params

/-- R11: VF changes only in a flag writer, or in an instruction whose destination is VF. -/
def Obligations.OnlyFlagWritersOrDestinationChangeVf : Prop := ∀ (i : Instr) (s t : State), exec i s = .next t →
  t.reg vf ≠ s.reg vf →
  (∃ x y, i = .addReg x y ∨ i = .sub x y ∨ i = .subn x y ∨ i = .shr x y ∨ i = .shl x y) ∨
  (∃ x y n, i = .drw x y n) ∨
  (∃ nn, i = .ldByte vf nn ∨ i = .addByte vf nn ∨ i = .rnd vf nn) ∨
  (∃ y, i = .ldReg vf y ∨ i = .or vf y ∨ i = .and vf y ∨ i = .xor vf y) ∨
  i = .ldVxDt vf ∨ i = .ldVxK vf ∨ i = .ldVxMem vf

/-- R5: no host operation, STEP included, writes the parameters of the machine. Holding them in the state is the model's
choice, log entry 1. -/
def Obligations.ParametersNeverChange : Prop := ∀ (op : HostOp) (s t : State) (r : Reply),
  hostOp op s = .next (t, r) → t.params = s.params

/-- R99, R100, R102: memory stays canonical, the fault registers agree with RUN_STATE, FAULTED leaves PC at FAULT_PC,
and a recorded fault is one the parameters allow: every STEP keeps this. -/
def Obligations.StepKeepsInvariant : Prop := ∀ s t : State, s.Inv → step s = .next t → t.Inv

/-- R99, R100, R115: every host operation keeps the invariant. -/
def Obligations.HostOperationsKeepInvariant : Prop := ∀ (op : HostOp) (s t : State) (r : Reply),
  s.Inv → hostOp op s = .next (t, r) → t.Inv

/-- R111, R115, R124: under every interleaving of host operations, from a fresh machine with any parameters, the
invariant holds. -/
def Obligations.ReachableStatesKeepInvariant : Prop := ∀ (p : Params) (s : State), s.reachable p → s.Inv

/-- R126: the reset state meets the invariant, with any parameters. -/
def Obligations.ResetMeetsInvariant : Prop := State.reset.Inv ∧ ∀ (p : Params) (n : Nat), (State.resetWith p n).Inv

/-! ### Family 0: NOP, CLS, RET -/

/-- R57: NOP only moves PC. -/
def Obligations.NopOnlyMovesPc : Prop :=
  decodeWord 0x0000 = .ok .nop ∧ ∀ s : State, exec .nop s = .next { s with pc := s.pc + 2 }

/-- R58: CLS makes every pixel false and changes nothing else. -/
def Obligations.ClsClearsEveryPixel : Prop :=
  decodeWord 0x00E0 = .ok .cls ∧ ∀ s : State, ∃ fb : FrameBuffer,
    exec .cls s = .next { s with fb := fb, pc := s.pc + 2 } ∧ ∀ px py, fb.pixel px py = false

/-- R59, D9: RET pops the return address and keeps the slot; with SP = 0 it takes STACK_UNDERFLOW. FAULT_WORD is the
encoded instruction, log entry 9. -/
def Obligations.RetPopsReturnAddress : Prop :=
  decodeWord 0x00EE = .ok .ret ∧
  (∀ (s : State) (h : 0 < s.sp.val), exec .ret s = .next { s with
    sp := ⟨s.sp.val - 1, by omega⟩, pc := s.stack[s.sp.val - 1]'(by omega) }) ∧
  (∀ s : State, s.sp.val = 0 → TakesFault .ret s .stackUnderflow)

/-! ### Families 1 and 2: JP and CALL -/

/-- R60: JP sets PC to NNN and changes nothing else. -/
def Obligations.JpSetsPc : Prop := ∀ nnn : Addr12,
  decodeWord (addrWord 0x1 nnn) = .ok (.jp nnn) ∧ ∀ s : State, exec (.jp nnn) s = .next { s with pc := nnn.setWidth 16 }

/-- R61, D9: CALL pushes pc0 + 2 and jumps; with SP = 16 it takes STACK_OVERFLOW. FAULT_WORD is the encoded
instruction, log entry 9. -/
def Obligations.CallPushesReturnAddress : Prop := ∀ nnn : Addr12,
  decodeWord (addrWord 0x2 nnn) = .ok (.call nnn) ∧
  (∀ (s : State) (h : s.sp.val < 16), exec (.call nnn) s = .next { s with
    stack := s.stack.set s.sp.val (s.pc + 2), sp := ⟨s.sp.val + 1, by omega⟩, pc := nnn.setWidth 16 }) ∧
  (∀ s : State, s.sp.val = 16 → TakesFault (.call nnn) s .stackOverflow)

/-- R59, R61: a CALL, and then a RET with nothing pushed or popped between, comes back to the word after the CALL with
SP as it was. -/
def Obligations.RetUndoesCall : Prop := ∀ (nnn : Addr12) (s t u : State), s.sp.val < 16 →
  exec (.call nnn) s = .next t → exec .ret { u with stack := t.stack, sp := t.sp } =
    .next { u with stack := t.stack, sp := s.sp, pc := s.pc + 2 }

/-! ### Families 3, 4, 5 and 9: skips -/

/-- R63, R64: the byte skips go to pc0 + 4 when they skip and to pc0 + 2 when they do not; nothing else changes. -/
def Obligations.ByteSkipsMoveOnlyPc : Prop := ∀ (x : Reg) (nn : Byte),
  decodeWord (xnnWord 0x3 x nn) = .ok (.seByte x nn) ∧ decodeWord (xnnWord 0x4 x nn) = .ok (.sneByte x nn) ∧
  ∀ s : State,
    exec (.seByte x nn) s = .next { s with pc := if s.reg x = nn then s.pc + 4 else s.pc + 2 } ∧
    exec (.sneByte x nn) s = .next { s with pc := if s.reg x = nn then s.pc + 2 else s.pc + 4 }

/-- R65, R66: the register skips, likewise. -/
def Obligations.RegisterSkipsMoveOnlyPc : Prop := ∀ x y : Reg,
  decodeWord (xynWord 0x5 x y 0) = .ok (.seReg x y) ∧ decodeWord (xynWord 0x9 x y 0) = .ok (.sneReg x y) ∧
  ∀ s : State,
    exec (.seReg x y) s = .next { s with pc := if s.reg x = s.reg y then s.pc + 4 else s.pc + 2 } ∧
    exec (.sneReg x y) s = .next { s with pc := if s.reg x = s.reg y then s.pc + 2 else s.pc + 4 }

/-! ### Families 6 and 7: immediates -/

/-- R67, R68: LD and ADD with a byte write Vx only; ADD wraps and sets no flag. -/
def Obligations.ImmediatesWriteOnlyVx : Prop := ∀ (x : Reg) (nn : Byte),
  decodeWord (xnnWord 0x6 x nn) = .ok (.ldByte x nn) ∧ decodeWord (xnnWord 0x7 x nn) = .ok (.addByte x nn) ∧
  ∀ s : State,
    WritesRegs (.ldByte x nn) s (fun r => if r = x then nn else s.reg r) ∧
    WritesRegs (.addByte x nn) s
      (fun r => if r = x then BitVec.ofNat 8 (((s.reg x).toNat + nn.toNat) % 256) else s.reg r)

/-! ### Family 8: the ALU -/

/-- R70 to R73: the move and the logic write Vx only, VF included in what is kept unless x = F. -/
def Obligations.MoveAndLogicWriteOnlyVx : Prop := ∀ x y : Reg,
  decodeWord (xynWord 0x8 x y 0) = .ok (.ldReg x y) ∧ decodeWord (xynWord 0x8 x y 1) = .ok (.or x y) ∧
  decodeWord (xynWord 0x8 x y 2) = .ok (.and x y) ∧ decodeWord (xynWord 0x8 x y 3) = .ok (.xor x y) ∧
  ∀ s : State,
    WritesRegs (.ldReg x y) s (fun r => if r = x then s.reg y else s.reg r) ∧
    WritesRegs (.or x y) s (fun r => if r = x then s.reg x ||| s.reg y else s.reg r) ∧
    WritesRegs (.and x y) s (fun r => if r = x then s.reg x &&& s.reg y else s.reg r) ∧
    WritesRegs (.xor x y) s (fun r => if r = x then s.reg x ^^^ s.reg y else s.reg r)

/-- R74: ADD writes the sum modulo 256 to Vx and the carry to VF, the flag last. -/
def Obligations.AddWritesSumThenCarry : Prop := ∀ x y : Reg,
  decodeWord (xynWord 0x8 x y 4) = .ok (.addReg x y) ∧
  ∀ s : State, WritesRegs (.addReg x y) s (fun r =>
    if r = vf then (if (s.reg x).toNat + (s.reg y).toNat > 255 then 1 else 0)
    else if r = x then BitVec.ofNat 8 (((s.reg x).toNat + (s.reg y).toNat) % 256) else s.reg r)

/-- R75: SUB writes Vx − Vy modulo 256 to Vx and "no borrow" to VF, the flag last. -/
def Obligations.SubWritesDifferenceThenNoBorrow : Prop := ∀ x y : Reg,
  decodeWord (xynWord 0x8 x y 5) = .ok (.sub x y) ∧
  ∀ s : State, WritesRegs (.sub x y) s (fun r =>
    if r = vf then (if (s.reg x).toNat ≥ (s.reg y).toNat then 1 else 0)
    else if r = x then BitVec.ofInt 8 (((s.reg x).toNat : Int) - (s.reg y).toNat) else s.reg r)

/-- R77: SUBN writes Vy − Vx modulo 256 to Vy, not to Vx, and "no borrow" to VF, the flag last. -/
def Obligations.SubnWritesVyThenNoBorrow : Prop := ∀ x y : Reg,
  decodeWord (xynWord 0x8 x y 7) = .ok (.subn x y) ∧
  ∀ s : State, WritesRegs (.subn x y) s (fun r =>
    if r = vf then (if (s.reg y).toNat ≥ (s.reg x).toNat then 1 else 0)
    else if r = y then BitVec.ofInt 8 (((s.reg y).toNat : Int) - (s.reg x).toNat) else s.reg r)

/-- R76: SHR halves Vx and puts its bit 0 into VF, whatever y is; with x = F the later write of SHIFT_VF_ORDER stays. -/
def Obligations.ShrShiftsVxAndKeepsLostBit : Prop := ∀ x y : Reg,
  decodeWord (xynWord 0x8 x y 6) = .ok (.shr x y) ∧
  ∀ s : State, WritesRegs (.shr x y) s (fun r =>
    if r = x then
      if x = vf ∧ s.params.shiftVfOrder = .resultThenFlag then BitVec.ofNat 8 ((s.reg x).toNat % 2)
      else BitVec.ofNat 8 ((s.reg x).toNat / 2)
    else if r = vf then BitVec.ofNat 8 ((s.reg x).toNat % 2) else s.reg r)

/-- R78: SHL doubles Vx modulo 256 and puts its bit 7 into VF, whatever y is; with x = F the later write of
SHIFT_VF_ORDER stays. -/
def Obligations.ShlShiftsVxAndKeepsLostBit : Prop := ∀ x y : Reg,
  decodeWord (xynWord 0x8 x y 0xE) = .ok (.shl x y) ∧
  ∀ s : State, WritesRegs (.shl x y) s (fun r =>
    if r = x then
      if x = vf ∧ s.params.shiftVfOrder = .resultThenFlag then BitVec.ofNat 8 ((s.reg x).toNat / 128)
      else BitVec.ofNat 8 ((s.reg x).toNat * 2 % 256)
    else if r = vf then BitVec.ofNat 8 ((s.reg x).toNat / 128) else s.reg r)

/-! ### Families A, B and C -/

/-- R81: LD I sets I to NNN and changes nothing else. -/
def Obligations.LdISetsIndex : Prop := ∀ nnn : Addr12,
  decodeWord (addrWord 0xA nnn) = .ok (.ldI nnn) ∧
  ∀ s : State, exec (.ldI nnn) s = .next { s with index := nnn.setWidth 16, pc := s.pc + 2 }

/-- R82: JP V0 sets PC to the exact sum V0 + NNN, at most 0x10FE, and changes nothing else. -/
def Obligations.JpV0SetsPcToUnwrappedSum : Prop := ∀ nnn : Addr12,
  decodeWord (addrWord 0xB nnn) = .ok (.jpV0 nnn) ∧
  ∀ s : State, ∃ target : Word, exec (.jpV0 nnn) s = .next { s with pc := target } ∧
    target.toNat = (s.reg 0).toNat + nnn.toNat ∧ target.toNat ≤ 0x10FE

/-- R83, D23: RND writes a free draw, masked by NN, to Vx, and the next RND draws afresh. The sequence of draws is the
model's form of the free input, log entry 7: the statement holds for every sequence. -/
def Obligations.RndWritesMaskedFreshDraw : Prop := ∀ (x : Reg) (nn : Byte),
  decodeWord (xnnWord 0xC x nn) = .ok (.rnd x nn) ∧
  ∀ s : State, ∃ vs : Vector Byte 16,
    exec (.rnd x nn) s = .next { s with v := vs, pc := s.pc + 2, draws := s.draws + 1 } ∧
    ∀ r, vs.get r = if r = x then Config.entropy s.draws &&& nn else s.reg r

/-! ### Family D: the sprite -/

/-- R84, R85, D13: DRW toggles pixel (px, py) exactly when the sprite bit over it is set, each pixel wrapping on its
own; VF is 1 exactly when such a pixel was on; no other register and nothing else changes. Row r of the sprite is the
byte that I + r reaches, and its bit 7 is the leftmost column. -/
def Obligations.DrwTogglesSpritePixels : Prop := ∀ (x y : Reg) (n : Fin 16),
  decodeWord (xynWord 0xD x y n) = .ok (.drw x y n) ∧
  ∀ s : State, accessOk s.params.oorPolicy s.index.toNat n.val →
    ∃ (vs : Vector Byte 16) (fb : FrameBuffer),
      exec (.drw x y n) s = .next { s with v := vs, fb := fb, pc := s.pc + 2 } ∧
      (∀ px py, fb.pixel px py ≠ s.fb.pixel px py ↔
        ∃ r c, r < n.val ∧ c < 8 ∧ (s.cell ((s.index.toNat + r) % 0x1000)).getLsbD (7 - c) = true ∧
          px.val = ((s.reg x).toNat + c) % 64 ∧ py.val = ((s.reg y).toNat + r) % 32) ∧
      (∀ r, r ≠ vf → vs.get r = s.reg r) ∧
      vs.get vf = (if ∃ px py, s.fb.pixel px py = true ∧ fb.pixel px py = false then 1 else 0)

/-- R84, R86: drawing the same sprite twice at the same origin restores every pixel. The second draw starts from the
first one's frame buffer and from the registers the first one started from. Onto a blank frame buffer the second draw
sets VF exactly when the sprite has a set bit; where touched pixels were on before the first draw R86's sentence does
not say so much, log entry 10. -/
def Obligations.DrawingTwiceRestoresFrameBuffer : Prop := ∀ (x y : Reg) (n : Fin 16) (s t u : State),
  accessOk s.params.oorPolicy s.index.toNat n.val →
  exec (.drw x y n) s = .next t → exec (.drw x y n) { t with v := s.v } = .next u →
  u.fb = s.fb ∧ ((∀ px py, s.fb.pixel px py = false) →
    ((∃ r c, r < n.val ∧ c < 8 ∧ (s.cell ((s.index.toNat + r) % 0x1000)).getLsbD (7 - c) = true) → u.reg vf = 1) ∧
    ((∀ r c, r < n.val → c < 8 → (s.cell ((s.index.toNat + r) % 0x1000)).getLsbD (7 - c) = false) → u.reg vf = 0))

/-! ### Keys -/

/-- R87, R88, R89, D10: SKP and SKNP test the key Vx names; a value above 0xF takes KEY_INDEX_RANGE, or under
MASK_LOW_NIBBLE names the key of its low nibble. FAULT_WORD is the encoded instruction, log entry 9. -/
def Obligations.KeySkipsTestTheNamedKey : Prop := ∀ x : Reg,
  decodeWord (xnnWord 0xE x 0x9E) = .ok (.skp x) ∧ decodeWord (xnnWord 0xE x 0xA1) = .ok (.sknp x) ∧
  (∀ (s : State) (k : Fin 16),
    k.val = (s.reg x).toNat ∨ (s.params.keyIndexPolicy = .maskLowNibble ∧ k.val = (s.reg x).toNat % 16) →
    exec (.skp x) s = .next { s with pc := if s.key k = true then s.pc + 4 else s.pc + 2 } ∧
    exec (.sknp x) s = .next { s with pc := if s.key k = true then s.pc + 2 else s.pc + 4 }) ∧
  (∀ s : State, 15 < (s.reg x).toNat → s.params.keyIndexPolicy = .fault →
    TakesFault (.skp x) s .keyIndexRange ∧ TakesFault (.sknp x) s .keyIndexRange)

/-- R90: FX0A writes the lowest pressed key to Vx; with no key pressed it changes nothing at all, PC included. -/
def Obligations.KeyWaitTakesLowestKeyOrStays : Prop := ∀ x : Reg,
  decodeWord (xnnWord 0xF x 0x0A) = .ok (.ldVxK x) ∧
  (∀ (s : State) (k : Fin 16), s.key k = true → (∀ j, j < k → s.key j = false) →
    WritesRegs (.ldVxK x) s (fun r => if r = x then BitVec.ofNat 8 k.val else s.reg r)) ∧
  (∀ s : State, (∀ k, s.key k = false) → exec (.ldVxK x) s = .next s)

/-! ### Timers -/

/-- R91, R92, R93: the timer instructions copy DT to Vx, Vx to DT, and Vx to ST, and change nothing else. -/
def Obligations.TimerInstructionsCopy : Prop := ∀ x : Reg,
  decodeWord (xnnWord 0xF x 0x07) = .ok (.ldVxDt x) ∧ decodeWord (xnnWord 0xF x 0x15) = .ok (.ldDtVx x) ∧
  decodeWord (xnnWord 0xF x 0x18) = .ok (.ldStVx x) ∧
  ∀ s : State,
    WritesRegs (.ldVxDt x) s (fun r => if r = x then s.dt else s.reg r) ∧
    exec (.ldDtVx x) s = .next { s with dt := s.reg x, pc := s.pc + 2 } ∧
    exec (.ldStVx x) s = .next { s with st := s.reg x, pc := s.pc + 2 }

/-! ### I and memory -/

/-- R94: ADD I adds Vx to I modulo 2^16; no flag and nothing else changes. -/
def Obligations.AddIndexWrapsAtSixteenBits : Prop := ∀ x : Reg,
  decodeWord (xnnWord 0xF x 0x1E) = .ok (.addIVx x) ∧
  ∀ s : State, exec (.addIVx x) s = .next { s with
    index := BitVec.ofNat 16 ((s.index.toNat + (s.reg x).toNat) % 0x10000), pc := s.pc + 2 }

/-- R95: LD F sets I to 5·Vx, or to 5·(Vx mod 16) under FONT_DIGIT_MASK, and changes nothing else. -/
def Obligations.LdFSetsIndexToGlyph : Prop := ∀ x : Reg,
  decodeWord (xnnWord 0xF x 0x29) = .ok (.ldFVx x) ∧
  ∀ s : State, ∃ a : Word, exec (.ldFVx x) s = .next { s with index := a, pc := s.pc + 2 } ∧
    a.toNat = if s.params.fontDigitMask = true then (s.reg x).toNat % 16 * 5 else (s.reg x).toNat * 5

/-- R96: the decimal digits of Vx go to the three cells that I, I + 1 and I + 2 reach; every other cell and everything
else is kept. -/
def Obligations.BcdStoresThreeDigits : Prop := ∀ x : Reg,
  decodeWord (xnnWord 0xF x 0x33) = .ok (.ldBVx x) ∧
  ∀ s : State, accessOk s.params.oorPolicy s.index.toNat 3 → ∃ m : List Host.Cell,
    exec (.ldBVx x) s = .next { s with mem := m, pc := s.pc + 2 } ∧
    let t := { s with mem := m }
    (t.cell (s.index.toNat % 0x1000)).toNat = (s.reg x).toNat / 100 ∧
    (t.cell ((s.index.toNat + 1) % 0x1000)).toNat = (s.reg x).toNat / 10 % 10 ∧
    (t.cell ((s.index.toNat + 2) % 0x1000)).toNat = (s.reg x).toNat % 10 ∧
    ∀ a, (∀ k < 3, a ≠ (s.index.toNat + k) % 0x1000) → t.cell a = s.cell a

/-- R97: V0 to Vx go to the cells that I, I + 1, ..., I + x reach; every other cell and everything else, I included, is
kept. -/
def Obligations.BlockStoreWritesV0ToVx : Prop := ∀ x : Reg,
  decodeWord (xnnWord 0xF x 0x55) = .ok (.ldMemVx x) ∧
  ∀ s : State, accessOk s.params.oorPolicy s.index.toNat (x.val + 1) → ∃ m : List Host.Cell,
    exec (.ldMemVx x) s = .next { s with mem := m, pc := s.pc + 2 } ∧
    let t := { s with mem := m }
    (∀ k : Reg, k ≤ x → t.cell ((s.index.toNat + k.val) % 0x1000) = s.reg k) ∧
    ∀ a, (∀ k ≤ x.val, a ≠ (s.index.toNat + k) % 0x1000) → t.cell a = s.cell a

/-- R98: V0 to Vx come from the cells that I, I + 1, ..., I + x reach; every other register and everything else, I
included, is kept. -/
def Obligations.BlockLoadReadsV0ToVx : Prop := ∀ x : Reg,
  decodeWord (xnnWord 0xF x 0x65) = .ok (.ldVxMem x) ∧
  ∀ s : State, accessOk s.params.oorPolicy s.index.toNat (x.val + 1) →
    WritesRegs (.ldVxMem x) s
      (fun r => if r ≤ x then s.cell ((s.index.toNat + r.val) % 0x1000) else s.reg r)

/-- R30, R84, R96, R97, R98, R102: under OOR_POLICY = FAULT an access of 0x1000 or above makes the whole instruction
take ADDRESS_RANGE, with nothing written. FAULT_WORD is the encoded instruction, log entry 9. -/
def Obligations.DataAddressOutOfRangeFaults : Prop := ∀ (x y : Reg) (n : Fin 16) (s : State),
  s.params.oorPolicy = .fault →
  (0 < n.val → 0x1000 < s.index.toNat + n.val → TakesFault (.drw x y n) s .addressRange) ∧
  (0x1000 ≤ s.index.toNat + 2 → TakesFault (.ldBVx x) s .addressRange) ∧
  (0x1000 ≤ s.index.toNat + x.val →
    TakesFault (.ldMemVx x) s .addressRange ∧ TakesFault (.ldVxMem x) s .addressRange)

/-! ### Host operations and reset -/

/-- R109, R110, D24: TICK takes both timers down by one, stopping at zero, whatever RUN_STATE is, answers SOUND_STOP
exactly when ST was 1, and changes nothing else. -/
def Obligations.TickDecrementsTimers : Prop := ∀ s : State, ∃ (dt st : Byte) (stop : Bool),
  hostOp .tick s = .next ({ s with dt := dt, st := st }, .soundStop stop) ∧
  dt.toNat = s.dt.toNat - 1 ∧ st.toNat = s.st.toNat - 1 ∧ (stop = true ↔ s.st.toNat = 1)

/-- R109: after k TICKs a timer that held n holds n − k, so it reaches 0 after exactly n TICKs and stays there. -/
def Obligations.TimerAfterTicks : Prop := ∀ (k : Nat) (s : State), ∃ t : State,
  runOps (List.replicate k .tick) s = .next t ∧ t.dt.toNat = s.dt.toNat - k ∧ t.st.toNat = s.st.toNat - k ∧
  t = { s with dt := t.dt, st := t.st }

/-- R126: RESET gives every piece of state its reset value, FONT at 0x000..0x04F and 0x00 in every other cell; the
parameters are fixed for the machine, log entry 1. The draw counter is the model's own and stays, log entry 7. -/
def Obligations.ResetSetsEveryField : Prop := ∀ s : State, ∃ t : State, hostOp .reset s = .next (t, .none) ∧
  (∀ a (h : a < 80), t.cell a = s.params.font[a]) ∧ (∀ a, 80 ≤ a → t.cell a = 0) ∧
  (∀ x, t.reg x = 0) ∧ t.index = 0 ∧ t.pc = 0x200 ∧ t.sp.val = 0 ∧ (∀ j, t.stack.get j = 0) ∧ t.dt = 0 ∧ t.st = 0 ∧
  (∀ px py, t.fb.pixel px py = false) ∧ (∀ k, t.key k = false) ∧ t.runState = .running ∧ t.faultCode = 0 ∧
  t.faultWord = 0 ∧ t.faultPc = 0 ∧ t.loaded = false ∧ t.params = s.params ∧ t.draws = s.draws

/-- R127, R128: the machine's own reset state is what RESET gives it: RESET there changes nothing. -/
def Obligations.ResetOfFreshMachineIsItself : Prop :=
  hostOp .reset State.reset = .next (State.reset, .none) ∧ State.reset.pc = 0x200 ∧ State.reset.loaded = false

/-- R117, D19: a LOAD that fits copies the image to 0x200 and up and sets LOADED; one that does not answers
LOAD_OVERFLOW and changes nothing. -/
def Obligations.LoadCopiesImageOrRefusesWhole : Prop := ∀ (s : State) (bytes : List Byte), s.loaded = false →
  (bytes.length ≤ 3584 → ∃ m : List Host.Cell,
    hostOp (.load bytes) s = .next ({ s with mem := m, loaded := true }, .loadOk) ∧
    (∀ (j : Nat) (h : j < bytes.length), { s with mem := m }.cell (0x200 + j) = bytes[j]) ∧
    ∀ a, a < 0x200 ∨ 0x200 + bytes.length ≤ a → { s with mem := m }.cell a = s.cell a) ∧
  (3584 < bytes.length → hostOp (.load bytes) s = .next (s, .loadOverflow))

/-- R119: SET_KEY writes one key and changes nothing else. -/
def Obligations.SetKeyWritesOneKey : Prop := ∀ (s : State) (k : Fin 16) (p : Bool), ∃ ks : Vector Bool 16,
  hostOp (.setKey k p) s = .next ({ s with keys := ks }, .none) ∧
  ∀ j, ks.get j = if j = k then p else s.key j

/-- R99, R120, R121, R122: the host's reads answer FB in row-major order, ST, and the fault report with its numbered
codes, and change nothing. -/
def Obligations.HostReadsChangeNothing : Prop := ∀ s : State, ∃ pixels : List Bool,
  hostOp .readFb s = .next (s, .frame pixels) ∧ pixels.length = 2048 ∧
  (∀ (px : Fin 64) (py : Fin 32), pixels[px.val + 64 * py.val]? = some (s.fb.pixel px py)) ∧
  hostOp .readSt s = .next (s, .sound s.st) ∧
  hostOp .readFault s = .next (s, .fault s.runState s.faultCode s.faultWord s.faultPc) ∧
  s.faultCode = (match s.faultKind with
    | none => 0
    | some .unimplementedOpcode => 1
    | some .stackOverflow => 2
    | some .stackUnderflow => 3
    | some .keyIndexRange => 4
    | some .addressRange => 5)
end

