-- ==== Sys2Proof/Laws/Decode.lean ====
section
/-! SUPPORT. The fields of an encoded word, format by format, and the encoder as a number. -/

namespace Sys2Proof

/-- Fields of a word are digits of the number it is. -/
theorem fieldN1_toNat (w : Word) : (fieldN1 w).toNat = w.toNat / 0x1000 := by
  have := w.isLt
  simp only [fieldN1, BitVec.extractLsb'_toNat, Nat.shiftRight_eq_div_pow]; omega

theorem fieldX_val (w : Word) : (fieldX w).val = w.toNat / 0x100 % 0x10 := by
  show (w.extractLsb' 8 4).toNat = _
  simp only [BitVec.extractLsb'_toNat, Nat.shiftRight_eq_div_pow]

theorem fieldY_val (w : Word) : (fieldY w).val = w.toNat / 0x10 % 0x10 := by
  show (w.extractLsb' 4 4).toNat = _
  simp only [BitVec.extractLsb'_toNat, Nat.shiftRight_eq_div_pow]

theorem fieldN4_toNat (w : Word) : (fieldN4 w).toNat = w.toNat % 0x10 := by
  simp only [fieldN4, BitVec.extractLsb'_toNat, Nat.shiftRight_eq_div_pow]; omega

theorem fieldN_val (w : Word) : (fieldN w).val = w.toNat % 0x10 := fieldN4_toNat w

theorem fieldNN_toNat (w : Word) : (fieldNN w).toNat = w.toNat % 0x100 := by
  simp only [fieldNN, BitVec.extractLsb'_toNat, Nat.shiftRight_eq_div_pow]; omega

theorem fieldNNN_toNat (w : Word) : (fieldNNN w).toNat = w.toNat % 0x1000 := by
  simp only [fieldNNN, BitVec.extractLsb'_toNat, Nat.shiftRight_eq_div_pow]; omega

/-- The encoder's layouts as numbers. -/
theorem formAddr_toNat (op : BitVec 4) (nnn : Addr12) :
    (formAddr op nnn).toNat = op.toNat * 0x1000 + nnn.toNat := by
  have := nnn.isLt
  rw [formAddr, BitVec.toNat_append, Nat.shiftLeft_eq, ← Nat.shiftLeft_eq, ← Nat.shiftLeft_add_eq_or_of_lt this,
    Nat.shiftLeft_eq]

theorem nibble_toNat (r : Fin 16) : (nibble r).toNat = r.val := rfl

theorem formXnn_toNat (op : BitVec 4) (x : Reg) (nn : Byte) :
    (formXnn op x nn).toNat = op.toNat * 0x1000 + x.val * 0x100 + nn.toNat := by
  have hn := nn.isLt
  have hx : (nibble x).toNat < 2 ^ 4 := x.isLt
  rw [formXnn, BitVec.toNat_append, BitVec.toNat_append, ← Nat.shiftLeft_add_eq_or_of_lt hn,
    ← Nat.shiftLeft_add_eq_or_of_lt hx, Nat.shiftLeft_eq, Nat.shiftLeft_eq, nibble_toNat]
  omega

theorem formXyn_toNat (op : BitVec 4) (x y : Reg) (n : BitVec 4) :
    (formXyn op x y n).toNat = op.toNat * 0x1000 + x.val * 0x100 + y.val * 0x10 + n.toNat := by
  have hn := n.isLt
  have hx : (nibble x).toNat < 2 ^ 4 := x.isLt
  have hy : (nibble y).toNat < 2 ^ 4 := y.isLt
  rw [formXyn, BitVec.toNat_append, BitVec.toNat_append, BitVec.toNat_append, ← Nat.shiftLeft_add_eq_or_of_lt hn,
    ← Nat.shiftLeft_add_eq_or_of_lt hy, ← Nat.shiftLeft_add_eq_or_of_lt hx, Nat.shiftLeft_eq, Nat.shiftLeft_eq,
    Nat.shiftLeft_eq, nibble_toNat, nibble_toNat]
  omega

/-! ### Each field of an encoded word is the operand it was made from -/

@[simp] theorem fieldN1_formAddr (op : BitVec 4) (nnn : Addr12) : fieldN1 (formAddr op nnn) = op := by
  apply BitVec.eq_of_toNat_eq; rw [fieldN1_toNat, formAddr_toNat]; omega

@[simp] theorem fieldNNN_formAddr (op : BitVec 4) (nnn : Addr12) : fieldNNN (formAddr op nnn) = nnn := by
  apply BitVec.eq_of_toNat_eq; rw [fieldNNN_toNat, formAddr_toNat]; have := nnn.isLt; omega

@[simp] theorem fieldN1_formXnn (op : BitVec 4) (x : Reg) (nn : Byte) : fieldN1 (formXnn op x nn) = op := by
  apply BitVec.eq_of_toNat_eq; rw [fieldN1_toNat, formXnn_toNat]; omega

@[simp] theorem fieldX_formXnn (op : BitVec 4) (x : Reg) (nn : Byte) : fieldX (formXnn op x nn) = x := by
  apply Fin.ext; rw [fieldX_val, formXnn_toNat]; omega

@[simp] theorem fieldNN_formXnn (op : BitVec 4) (x : Reg) (nn : Byte) : fieldNN (formXnn op x nn) = nn := by
  apply BitVec.eq_of_toNat_eq; rw [fieldNN_toNat, formXnn_toNat]; have := nn.isLt; omega

@[simp] theorem fieldN1_formXyn (op : BitVec 4) (x y : Reg) (n : BitVec 4) : fieldN1 (formXyn op x y n) = op := by
  apply BitVec.eq_of_toNat_eq; rw [fieldN1_toNat, formXyn_toNat]; omega

@[simp] theorem fieldX_formXyn (op : BitVec 4) (x y : Reg) (n : BitVec 4) : fieldX (formXyn op x y n) = x := by
  apply Fin.ext; rw [fieldX_val, formXyn_toNat]; omega

@[simp] theorem fieldY_formXyn (op : BitVec 4) (x y : Reg) (n : BitVec 4) : fieldY (formXyn op x y n) = y := by
  apply Fin.ext; rw [fieldY_val, formXyn_toNat]; omega

@[simp] theorem fieldN4_formXyn (op : BitVec 4) (x y : Reg) (n : BitVec 4) : fieldN4 (formXyn op x y n) = n := by
  apply BitVec.eq_of_toNat_eq; rw [fieldN4_toNat, formXyn_toNat]; have := n.isLt; omega

/-! ### A word is the layout of its own fields -/

theorem formAddr_fields (w : Word) : formAddr (fieldN1 w) (fieldNNN w) = w := by
  apply BitVec.eq_of_toNat_eq; rw [formAddr_toNat, fieldN1_toNat, fieldNNN_toNat]; omega

theorem formXnn_fields (w : Word) : formXnn (fieldN1 w) (fieldX w) (fieldNN w) = w := by
  apply BitVec.eq_of_toNat_eq; rw [formXnn_toNat, fieldN1_toNat, fieldX_val, fieldNN_toNat]; omega

theorem formXyn_fields (w : Word) : formXyn (fieldN1 w) (fieldX w) (fieldY w) (fieldN4 w) = w := by
  apply BitVec.eq_of_toNat_eq; rw [formXyn_toNat, fieldN1_toNat, fieldX_val, fieldY_val, fieldN4_toNat]; omega

end Sys2Proof
end

