-- ==== Sys2Proof/Laws/State.lean ====
section
/-! SUPPORT. One lemma per field per update of the state, so that no proof unfolds a record update. -/

namespace Sys2Proof.Machine

/-! ### setReg -/

@[simp] theorem State.setReg_v (s : State) (x : Reg) (b : Byte) : (s.setReg x b).v = s.v.set x b := rfl
@[simp] theorem State.setReg_index (s : State) (x : Reg) (b : Byte) : (s.setReg x b).index = s.index := rfl
@[simp] theorem State.setReg_pc (s : State) (x : Reg) (b : Byte) : (s.setReg x b).pc = s.pc := rfl
@[simp] theorem State.setReg_sp (s : State) (x : Reg) (b : Byte) : (s.setReg x b).sp = s.sp := rfl
@[simp] theorem State.setReg_stack (s : State) (x : Reg) (b : Byte) : (s.setReg x b).stack = s.stack := rfl
@[simp] theorem State.setReg_dt (s : State) (x : Reg) (b : Byte) : (s.setReg x b).dt = s.dt := rfl
@[simp] theorem State.setReg_st (s : State) (x : Reg) (b : Byte) : (s.setReg x b).st = s.st := rfl
@[simp] theorem State.setReg_fb (s : State) (x : Reg) (b : Byte) : (s.setReg x b).fb = s.fb := rfl
@[simp] theorem State.setReg_keys (s : State) (x : Reg) (b : Byte) : (s.setReg x b).keys = s.keys := rfl
@[simp] theorem State.setReg_mem (s : State) (x : Reg) (b : Byte) : (s.setReg x b).mem = s.mem := rfl
@[simp] theorem State.setReg_runState (s : State) (x : Reg) (b : Byte) : (s.setReg x b).runState = s.runState := rfl
@[simp] theorem State.setReg_faultKind (s : State) (x : Reg) (b : Byte) : (s.setReg x b).faultKind = s.faultKind := rfl
@[simp] theorem State.setReg_faultWord (s : State) (x : Reg) (b : Byte) : (s.setReg x b).faultWord = s.faultWord := rfl
@[simp] theorem State.setReg_faultPc (s : State) (x : Reg) (b : Byte) : (s.setReg x b).faultPc = s.faultPc := rfl
@[simp] theorem State.setReg_loaded (s : State) (x : Reg) (b : Byte) : (s.setReg x b).loaded = s.loaded := rfl
@[simp] theorem State.setReg_params (s : State) (x : Reg) (b : Byte) : (s.setReg x b).params = s.params := rfl
@[simp] theorem State.setReg_draws (s : State) (x : Reg) (b : Byte) : (s.setReg x b).draws = s.draws := rfl

/-! ### setIndex -/

@[simp] theorem State.setIndex_v (s : State) (a : Word) : (s.setIndex a).v = s.v := rfl
@[simp] theorem State.setIndex_index (s : State) (a : Word) : (s.setIndex a).index = a := rfl
@[simp] theorem State.setIndex_pc (s : State) (a : Word) : (s.setIndex a).pc = s.pc := rfl
@[simp] theorem State.setIndex_sp (s : State) (a : Word) : (s.setIndex a).sp = s.sp := rfl
@[simp] theorem State.setIndex_stack (s : State) (a : Word) : (s.setIndex a).stack = s.stack := rfl
@[simp] theorem State.setIndex_dt (s : State) (a : Word) : (s.setIndex a).dt = s.dt := rfl
@[simp] theorem State.setIndex_st (s : State) (a : Word) : (s.setIndex a).st = s.st := rfl
@[simp] theorem State.setIndex_fb (s : State) (a : Word) : (s.setIndex a).fb = s.fb := rfl
@[simp] theorem State.setIndex_keys (s : State) (a : Word) : (s.setIndex a).keys = s.keys := rfl
@[simp] theorem State.setIndex_mem (s : State) (a : Word) : (s.setIndex a).mem = s.mem := rfl
@[simp] theorem State.setIndex_runState (s : State) (a : Word) : (s.setIndex a).runState = s.runState := rfl
@[simp] theorem State.setIndex_faultKind (s : State) (a : Word) : (s.setIndex a).faultKind = s.faultKind := rfl
@[simp] theorem State.setIndex_faultWord (s : State) (a : Word) : (s.setIndex a).faultWord = s.faultWord := rfl
@[simp] theorem State.setIndex_faultPc (s : State) (a : Word) : (s.setIndex a).faultPc = s.faultPc := rfl
@[simp] theorem State.setIndex_loaded (s : State) (a : Word) : (s.setIndex a).loaded = s.loaded := rfl
@[simp] theorem State.setIndex_params (s : State) (a : Word) : (s.setIndex a).params = s.params := rfl
@[simp] theorem State.setIndex_draws (s : State) (a : Word) : (s.setIndex a).draws = s.draws := rfl

/-! ### setPc -/

@[simp] theorem State.setPc_v (s : State) (a : Word) : (s.setPc a).v = s.v := rfl
@[simp] theorem State.setPc_index (s : State) (a : Word) : (s.setPc a).index = s.index := rfl
@[simp] theorem State.setPc_pc (s : State) (a : Word) : (s.setPc a).pc = a := rfl
@[simp] theorem State.setPc_sp (s : State) (a : Word) : (s.setPc a).sp = s.sp := rfl
@[simp] theorem State.setPc_stack (s : State) (a : Word) : (s.setPc a).stack = s.stack := rfl
@[simp] theorem State.setPc_dt (s : State) (a : Word) : (s.setPc a).dt = s.dt := rfl
@[simp] theorem State.setPc_st (s : State) (a : Word) : (s.setPc a).st = s.st := rfl
@[simp] theorem State.setPc_fb (s : State) (a : Word) : (s.setPc a).fb = s.fb := rfl
@[simp] theorem State.setPc_keys (s : State) (a : Word) : (s.setPc a).keys = s.keys := rfl
@[simp] theorem State.setPc_mem (s : State) (a : Word) : (s.setPc a).mem = s.mem := rfl
@[simp] theorem State.setPc_runState (s : State) (a : Word) : (s.setPc a).runState = s.runState := rfl
@[simp] theorem State.setPc_faultKind (s : State) (a : Word) : (s.setPc a).faultKind = s.faultKind := rfl
@[simp] theorem State.setPc_faultWord (s : State) (a : Word) : (s.setPc a).faultWord = s.faultWord := rfl
@[simp] theorem State.setPc_faultPc (s : State) (a : Word) : (s.setPc a).faultPc = s.faultPc := rfl
@[simp] theorem State.setPc_loaded (s : State) (a : Word) : (s.setPc a).loaded = s.loaded := rfl
@[simp] theorem State.setPc_params (s : State) (a : Word) : (s.setPc a).params = s.params := rfl
@[simp] theorem State.setPc_draws (s : State) (a : Word) : (s.setPc a).draws = s.draws := rfl

/-! ### setDt -/

@[simp] theorem State.setDt_v (s : State) (b : Byte) : (s.setDt b).v = s.v := rfl
@[simp] theorem State.setDt_index (s : State) (b : Byte) : (s.setDt b).index = s.index := rfl
@[simp] theorem State.setDt_pc (s : State) (b : Byte) : (s.setDt b).pc = s.pc := rfl
@[simp] theorem State.setDt_sp (s : State) (b : Byte) : (s.setDt b).sp = s.sp := rfl
@[simp] theorem State.setDt_stack (s : State) (b : Byte) : (s.setDt b).stack = s.stack := rfl
@[simp] theorem State.setDt_dt (s : State) (b : Byte) : (s.setDt b).dt = b := rfl
@[simp] theorem State.setDt_st (s : State) (b : Byte) : (s.setDt b).st = s.st := rfl
@[simp] theorem State.setDt_fb (s : State) (b : Byte) : (s.setDt b).fb = s.fb := rfl
@[simp] theorem State.setDt_keys (s : State) (b : Byte) : (s.setDt b).keys = s.keys := rfl
@[simp] theorem State.setDt_mem (s : State) (b : Byte) : (s.setDt b).mem = s.mem := rfl
@[simp] theorem State.setDt_runState (s : State) (b : Byte) : (s.setDt b).runState = s.runState := rfl
@[simp] theorem State.setDt_faultKind (s : State) (b : Byte) : (s.setDt b).faultKind = s.faultKind := rfl
@[simp] theorem State.setDt_faultWord (s : State) (b : Byte) : (s.setDt b).faultWord = s.faultWord := rfl
@[simp] theorem State.setDt_faultPc (s : State) (b : Byte) : (s.setDt b).faultPc = s.faultPc := rfl
@[simp] theorem State.setDt_loaded (s : State) (b : Byte) : (s.setDt b).loaded = s.loaded := rfl
@[simp] theorem State.setDt_params (s : State) (b : Byte) : (s.setDt b).params = s.params := rfl
@[simp] theorem State.setDt_draws (s : State) (b : Byte) : (s.setDt b).draws = s.draws := rfl

/-! ### setSt -/

@[simp] theorem State.setSt_v (s : State) (b : Byte) : (s.setSt b).v = s.v := rfl
@[simp] theorem State.setSt_index (s : State) (b : Byte) : (s.setSt b).index = s.index := rfl
@[simp] theorem State.setSt_pc (s : State) (b : Byte) : (s.setSt b).pc = s.pc := rfl
@[simp] theorem State.setSt_sp (s : State) (b : Byte) : (s.setSt b).sp = s.sp := rfl
@[simp] theorem State.setSt_stack (s : State) (b : Byte) : (s.setSt b).stack = s.stack := rfl
@[simp] theorem State.setSt_dt (s : State) (b : Byte) : (s.setSt b).dt = s.dt := rfl
@[simp] theorem State.setSt_st (s : State) (b : Byte) : (s.setSt b).st = b := rfl
@[simp] theorem State.setSt_fb (s : State) (b : Byte) : (s.setSt b).fb = s.fb := rfl
@[simp] theorem State.setSt_keys (s : State) (b : Byte) : (s.setSt b).keys = s.keys := rfl
@[simp] theorem State.setSt_mem (s : State) (b : Byte) : (s.setSt b).mem = s.mem := rfl
@[simp] theorem State.setSt_runState (s : State) (b : Byte) : (s.setSt b).runState = s.runState := rfl
@[simp] theorem State.setSt_faultKind (s : State) (b : Byte) : (s.setSt b).faultKind = s.faultKind := rfl
@[simp] theorem State.setSt_faultWord (s : State) (b : Byte) : (s.setSt b).faultWord = s.faultWord := rfl
@[simp] theorem State.setSt_faultPc (s : State) (b : Byte) : (s.setSt b).faultPc = s.faultPc := rfl
@[simp] theorem State.setSt_loaded (s : State) (b : Byte) : (s.setSt b).loaded = s.loaded := rfl
@[simp] theorem State.setSt_params (s : State) (b : Byte) : (s.setSt b).params = s.params := rfl
@[simp] theorem State.setSt_draws (s : State) (b : Byte) : (s.setSt b).draws = s.draws := rfl

/-! ### setFb -/

@[simp] theorem State.setFb_v (s : State) (fb : FrameBuffer) : (s.setFb fb).v = s.v := rfl
@[simp] theorem State.setFb_index (s : State) (fb : FrameBuffer) : (s.setFb fb).index = s.index := rfl
@[simp] theorem State.setFb_pc (s : State) (fb : FrameBuffer) : (s.setFb fb).pc = s.pc := rfl
@[simp] theorem State.setFb_sp (s : State) (fb : FrameBuffer) : (s.setFb fb).sp = s.sp := rfl
@[simp] theorem State.setFb_stack (s : State) (fb : FrameBuffer) : (s.setFb fb).stack = s.stack := rfl
@[simp] theorem State.setFb_dt (s : State) (fb : FrameBuffer) : (s.setFb fb).dt = s.dt := rfl
@[simp] theorem State.setFb_st (s : State) (fb : FrameBuffer) : (s.setFb fb).st = s.st := rfl
@[simp] theorem State.setFb_fb (s : State) (fb : FrameBuffer) : (s.setFb fb).fb = fb := rfl
@[simp] theorem State.setFb_keys (s : State) (fb : FrameBuffer) : (s.setFb fb).keys = s.keys := rfl
@[simp] theorem State.setFb_mem (s : State) (fb : FrameBuffer) : (s.setFb fb).mem = s.mem := rfl
@[simp] theorem State.setFb_runState (s : State) (fb : FrameBuffer) : (s.setFb fb).runState = s.runState := rfl
@[simp] theorem State.setFb_faultKind (s : State) (fb : FrameBuffer) : (s.setFb fb).faultKind = s.faultKind := rfl
@[simp] theorem State.setFb_faultWord (s : State) (fb : FrameBuffer) : (s.setFb fb).faultWord = s.faultWord := rfl
@[simp] theorem State.setFb_faultPc (s : State) (fb : FrameBuffer) : (s.setFb fb).faultPc = s.faultPc := rfl
@[simp] theorem State.setFb_loaded (s : State) (fb : FrameBuffer) : (s.setFb fb).loaded = s.loaded := rfl
@[simp] theorem State.setFb_params (s : State) (fb : FrameBuffer) : (s.setFb fb).params = s.params := rfl
@[simp] theorem State.setFb_draws (s : State) (fb : FrameBuffer) : (s.setFb fb).draws = s.draws := rfl

/-! ### setCell -/

@[simp] theorem State.setCell_v (s : State) (a : Nat) (b : Byte) : (s.setCell a b).v = s.v := rfl
@[simp] theorem State.setCell_index (s : State) (a : Nat) (b : Byte) : (s.setCell a b).index = s.index := rfl
@[simp] theorem State.setCell_pc (s : State) (a : Nat) (b : Byte) : (s.setCell a b).pc = s.pc := rfl
@[simp] theorem State.setCell_sp (s : State) (a : Nat) (b : Byte) : (s.setCell a b).sp = s.sp := rfl
@[simp] theorem State.setCell_stack (s : State) (a : Nat) (b : Byte) : (s.setCell a b).stack = s.stack := rfl
@[simp] theorem State.setCell_dt (s : State) (a : Nat) (b : Byte) : (s.setCell a b).dt = s.dt := rfl
@[simp] theorem State.setCell_st (s : State) (a : Nat) (b : Byte) : (s.setCell a b).st = s.st := rfl
@[simp] theorem State.setCell_fb (s : State) (a : Nat) (b : Byte) : (s.setCell a b).fb = s.fb := rfl
@[simp] theorem State.setCell_keys (s : State) (a : Nat) (b : Byte) : (s.setCell a b).keys = s.keys := rfl
@[simp] theorem State.setCell_mem (s : State) (a : Nat) (b : Byte) : (s.setCell a b).mem = Memory.write (resetByte s.params.font) s.mem a b := rfl
@[simp] theorem State.setCell_runState (s : State) (a : Nat) (b : Byte) : (s.setCell a b).runState = s.runState := rfl
@[simp] theorem State.setCell_faultKind (s : State) (a : Nat) (b : Byte) : (s.setCell a b).faultKind = s.faultKind := rfl
@[simp] theorem State.setCell_faultWord (s : State) (a : Nat) (b : Byte) : (s.setCell a b).faultWord = s.faultWord := rfl
@[simp] theorem State.setCell_faultPc (s : State) (a : Nat) (b : Byte) : (s.setCell a b).faultPc = s.faultPc := rfl
@[simp] theorem State.setCell_loaded (s : State) (a : Nat) (b : Byte) : (s.setCell a b).loaded = s.loaded := rfl
@[simp] theorem State.setCell_params (s : State) (a : Nat) (b : Byte) : (s.setCell a b).params = s.params := rfl
@[simp] theorem State.setCell_draws (s : State) (a : Nat) (b : Byte) : (s.setCell a b).draws = s.draws := rfl

/-! ### advance -/

@[simp] theorem State.advance_v (s : State) : (s.advance).v = s.v := rfl
@[simp] theorem State.advance_index (s : State) : (s.advance).index = s.index := rfl
@[simp] theorem State.advance_pc (s : State) : (s.advance).pc = s.pc + 2 := rfl
@[simp] theorem State.advance_sp (s : State) : (s.advance).sp = s.sp := rfl
@[simp] theorem State.advance_stack (s : State) : (s.advance).stack = s.stack := rfl
@[simp] theorem State.advance_dt (s : State) : (s.advance).dt = s.dt := rfl
@[simp] theorem State.advance_st (s : State) : (s.advance).st = s.st := rfl
@[simp] theorem State.advance_fb (s : State) : (s.advance).fb = s.fb := rfl
@[simp] theorem State.advance_keys (s : State) : (s.advance).keys = s.keys := rfl
@[simp] theorem State.advance_mem (s : State) : (s.advance).mem = s.mem := rfl
@[simp] theorem State.advance_runState (s : State) : (s.advance).runState = s.runState := rfl
@[simp] theorem State.advance_faultKind (s : State) : (s.advance).faultKind = s.faultKind := rfl
@[simp] theorem State.advance_faultWord (s : State) : (s.advance).faultWord = s.faultWord := rfl
@[simp] theorem State.advance_faultPc (s : State) : (s.advance).faultPc = s.faultPc := rfl
@[simp] theorem State.advance_loaded (s : State) : (s.advance).loaded = s.loaded := rfl
@[simp] theorem State.advance_params (s : State) : (s.advance).params = s.params := rfl
@[simp] theorem State.advance_draws (s : State) : (s.advance).draws = s.draws := rfl

/-! ### retreat -/

@[simp] theorem State.retreat_v (s : State) : (s.retreat).v = s.v := rfl
@[simp] theorem State.retreat_index (s : State) : (s.retreat).index = s.index := rfl
@[simp] theorem State.retreat_pc (s : State) : (s.retreat).pc = s.pc - 2 := rfl
@[simp] theorem State.retreat_sp (s : State) : (s.retreat).sp = s.sp := rfl
@[simp] theorem State.retreat_stack (s : State) : (s.retreat).stack = s.stack := rfl
@[simp] theorem State.retreat_dt (s : State) : (s.retreat).dt = s.dt := rfl
@[simp] theorem State.retreat_st (s : State) : (s.retreat).st = s.st := rfl
@[simp] theorem State.retreat_fb (s : State) : (s.retreat).fb = s.fb := rfl
@[simp] theorem State.retreat_keys (s : State) : (s.retreat).keys = s.keys := rfl
@[simp] theorem State.retreat_mem (s : State) : (s.retreat).mem = s.mem := rfl
@[simp] theorem State.retreat_runState (s : State) : (s.retreat).runState = s.runState := rfl
@[simp] theorem State.retreat_faultKind (s : State) : (s.retreat).faultKind = s.faultKind := rfl
@[simp] theorem State.retreat_faultWord (s : State) : (s.retreat).faultWord = s.faultWord := rfl
@[simp] theorem State.retreat_faultPc (s : State) : (s.retreat).faultPc = s.faultPc := rfl
@[simp] theorem State.retreat_loaded (s : State) : (s.retreat).loaded = s.loaded := rfl
@[simp] theorem State.retreat_params (s : State) : (s.retreat).params = s.params := rfl
@[simp] theorem State.retreat_draws (s : State) : (s.retreat).draws = s.draws := rfl

/-! ### takeDraw -/

@[simp] theorem State.takeDraw_v (s : State) : (s.takeDraw).v = s.v := rfl
@[simp] theorem State.takeDraw_index (s : State) : (s.takeDraw).index = s.index := rfl
@[simp] theorem State.takeDraw_pc (s : State) : (s.takeDraw).pc = s.pc := rfl
@[simp] theorem State.takeDraw_sp (s : State) : (s.takeDraw).sp = s.sp := rfl
@[simp] theorem State.takeDraw_stack (s : State) : (s.takeDraw).stack = s.stack := rfl
@[simp] theorem State.takeDraw_dt (s : State) : (s.takeDraw).dt = s.dt := rfl
@[simp] theorem State.takeDraw_st (s : State) : (s.takeDraw).st = s.st := rfl
@[simp] theorem State.takeDraw_fb (s : State) : (s.takeDraw).fb = s.fb := rfl
@[simp] theorem State.takeDraw_keys (s : State) : (s.takeDraw).keys = s.keys := rfl
@[simp] theorem State.takeDraw_mem (s : State) : (s.takeDraw).mem = s.mem := rfl
@[simp] theorem State.takeDraw_runState (s : State) : (s.takeDraw).runState = s.runState := rfl
@[simp] theorem State.takeDraw_faultKind (s : State) : (s.takeDraw).faultKind = s.faultKind := rfl
@[simp] theorem State.takeDraw_faultWord (s : State) : (s.takeDraw).faultWord = s.faultWord := rfl
@[simp] theorem State.takeDraw_faultPc (s : State) : (s.takeDraw).faultPc = s.faultPc := rfl
@[simp] theorem State.takeDraw_loaded (s : State) : (s.takeDraw).loaded = s.loaded := rfl
@[simp] theorem State.takeDraw_params (s : State) : (s.takeDraw).params = s.params := rfl
@[simp] theorem State.takeDraw_draws (s : State) : (s.takeDraw).draws = s.draws + 1 := rfl

/-! ### setCanvas -/

@[simp] theorem State.setCanvas_v (s : State) (d : Canvas) : (s.setCanvas d).v = s.v.set vf (flagByte d.coll) := rfl
@[simp] theorem State.setCanvas_index (s : State) (d : Canvas) : (s.setCanvas d).index = s.index := rfl
@[simp] theorem State.setCanvas_pc (s : State) (d : Canvas) : (s.setCanvas d).pc = s.pc := rfl
@[simp] theorem State.setCanvas_sp (s : State) (d : Canvas) : (s.setCanvas d).sp = s.sp := rfl
@[simp] theorem State.setCanvas_stack (s : State) (d : Canvas) : (s.setCanvas d).stack = s.stack := rfl
@[simp] theorem State.setCanvas_dt (s : State) (d : Canvas) : (s.setCanvas d).dt = s.dt := rfl
@[simp] theorem State.setCanvas_st (s : State) (d : Canvas) : (s.setCanvas d).st = s.st := rfl
@[simp] theorem State.setCanvas_fb (s : State) (d : Canvas) : (s.setCanvas d).fb = d.fb := rfl
@[simp] theorem State.setCanvas_keys (s : State) (d : Canvas) : (s.setCanvas d).keys = s.keys := rfl
@[simp] theorem State.setCanvas_mem (s : State) (d : Canvas) : (s.setCanvas d).mem = s.mem := rfl
@[simp] theorem State.setCanvas_runState (s : State) (d : Canvas) : (s.setCanvas d).runState = s.runState := rfl
@[simp] theorem State.setCanvas_faultKind (s : State) (d : Canvas) : (s.setCanvas d).faultKind = s.faultKind := rfl
@[simp] theorem State.setCanvas_faultWord (s : State) (d : Canvas) : (s.setCanvas d).faultWord = s.faultWord := rfl
@[simp] theorem State.setCanvas_faultPc (s : State) (d : Canvas) : (s.setCanvas d).faultPc = s.faultPc := rfl
@[simp] theorem State.setCanvas_loaded (s : State) (d : Canvas) : (s.setCanvas d).loaded = s.loaded := rfl
@[simp] theorem State.setCanvas_params (s : State) (d : Canvas) : (s.setCanvas d).params = s.params := rfl
@[simp] theorem State.setCanvas_draws (s : State) (d : Canvas) : (s.setCanvas d).draws = s.draws := rfl

/-! ### takeFault -/

@[simp] theorem State.takeFault_v (s : State) (f : Fault) (w : Word) : (s.takeFault f w).v = s.v := rfl
@[simp] theorem State.takeFault_index (s : State) (f : Fault) (w : Word) : (s.takeFault f w).index = s.index := rfl
@[simp] theorem State.takeFault_pc (s : State) (f : Fault) (w : Word) : (s.takeFault f w).pc = s.pc := rfl
@[simp] theorem State.takeFault_sp (s : State) (f : Fault) (w : Word) : (s.takeFault f w).sp = s.sp := rfl
@[simp] theorem State.takeFault_stack (s : State) (f : Fault) (w : Word) : (s.takeFault f w).stack = s.stack := rfl
@[simp] theorem State.takeFault_dt (s : State) (f : Fault) (w : Word) : (s.takeFault f w).dt = s.dt := rfl
@[simp] theorem State.takeFault_st (s : State) (f : Fault) (w : Word) : (s.takeFault f w).st = s.st := rfl
@[simp] theorem State.takeFault_fb (s : State) (f : Fault) (w : Word) : (s.takeFault f w).fb = s.fb := rfl
@[simp] theorem State.takeFault_keys (s : State) (f : Fault) (w : Word) : (s.takeFault f w).keys = s.keys := rfl
@[simp] theorem State.takeFault_mem (s : State) (f : Fault) (w : Word) : (s.takeFault f w).mem = s.mem := rfl
@[simp] theorem State.takeFault_runState (s : State) (f : Fault) (w : Word) : (s.takeFault f w).runState = .faulted := rfl
@[simp] theorem State.takeFault_faultKind (s : State) (f : Fault) (w : Word) : (s.takeFault f w).faultKind = some f := rfl
@[simp] theorem State.takeFault_faultWord (s : State) (f : Fault) (w : Word) : (s.takeFault f w).faultWord = w := rfl
@[simp] theorem State.takeFault_faultPc (s : State) (f : Fault) (w : Word) : (s.takeFault f w).faultPc = s.pc := rfl
@[simp] theorem State.takeFault_loaded (s : State) (f : Fault) (w : Word) : (s.takeFault f w).loaded = s.loaded := rfl
@[simp] theorem State.takeFault_params (s : State) (f : Fault) (w : Word) : (s.takeFault f w).params = s.params := rfl
@[simp] theorem State.takeFault_draws (s : State) (f : Fault) (w : Word) : (s.takeFault f w).draws = s.draws := rfl

/-! ### setLoaded -/

@[simp] theorem State.setLoaded_v (s : State) : (s.setLoaded).v = s.v := rfl
@[simp] theorem State.setLoaded_index (s : State) : (s.setLoaded).index = s.index := rfl
@[simp] theorem State.setLoaded_pc (s : State) : (s.setLoaded).pc = s.pc := rfl
@[simp] theorem State.setLoaded_sp (s : State) : (s.setLoaded).sp = s.sp := rfl
@[simp] theorem State.setLoaded_stack (s : State) : (s.setLoaded).stack = s.stack := rfl
@[simp] theorem State.setLoaded_dt (s : State) : (s.setLoaded).dt = s.dt := rfl
@[simp] theorem State.setLoaded_st (s : State) : (s.setLoaded).st = s.st := rfl
@[simp] theorem State.setLoaded_fb (s : State) : (s.setLoaded).fb = s.fb := rfl
@[simp] theorem State.setLoaded_keys (s : State) : (s.setLoaded).keys = s.keys := rfl
@[simp] theorem State.setLoaded_mem (s : State) : (s.setLoaded).mem = s.mem := rfl
@[simp] theorem State.setLoaded_runState (s : State) : (s.setLoaded).runState = s.runState := rfl
@[simp] theorem State.setLoaded_faultKind (s : State) : (s.setLoaded).faultKind = s.faultKind := rfl
@[simp] theorem State.setLoaded_faultWord (s : State) : (s.setLoaded).faultWord = s.faultWord := rfl
@[simp] theorem State.setLoaded_faultPc (s : State) : (s.setLoaded).faultPc = s.faultPc := rfl
@[simp] theorem State.setLoaded_loaded (s : State) : (s.setLoaded).loaded = true := rfl
@[simp] theorem State.setLoaded_params (s : State) : (s.setLoaded).params = s.params := rfl
@[simp] theorem State.setLoaded_draws (s : State) : (s.setLoaded).draws = s.draws := rfl

/-! ### tick -/

@[simp] theorem State.tick_v (s : State) : (s.tick).v = s.v := rfl
@[simp] theorem State.tick_index (s : State) : (s.tick).index = s.index := rfl
@[simp] theorem State.tick_pc (s : State) : (s.tick).pc = s.pc := rfl
@[simp] theorem State.tick_sp (s : State) : (s.tick).sp = s.sp := rfl
@[simp] theorem State.tick_stack (s : State) : (s.tick).stack = s.stack := rfl
@[simp] theorem State.tick_dt (s : State) : (s.tick).dt = timerDown s.dt := rfl
@[simp] theorem State.tick_st (s : State) : (s.tick).st = timerDown s.st := rfl
@[simp] theorem State.tick_fb (s : State) : (s.tick).fb = s.fb := rfl
@[simp] theorem State.tick_keys (s : State) : (s.tick).keys = s.keys := rfl
@[simp] theorem State.tick_mem (s : State) : (s.tick).mem = s.mem := rfl
@[simp] theorem State.tick_runState (s : State) : (s.tick).runState = s.runState := rfl
@[simp] theorem State.tick_faultKind (s : State) : (s.tick).faultKind = s.faultKind := rfl
@[simp] theorem State.tick_faultWord (s : State) : (s.tick).faultWord = s.faultWord := rfl
@[simp] theorem State.tick_faultPc (s : State) : (s.tick).faultPc = s.faultPc := rfl
@[simp] theorem State.tick_loaded (s : State) : (s.tick).loaded = s.loaded := rfl
@[simp] theorem State.tick_params (s : State) : (s.tick).params = s.params := rfl
@[simp] theorem State.tick_draws (s : State) : (s.tick).draws = s.draws := rfl

/-! ### setKey -/

@[simp] theorem State.setKey_v (s : State) (k : Fin 16) (p : Bool) : (s.setKey k p).v = s.v := rfl
@[simp] theorem State.setKey_index (s : State) (k : Fin 16) (p : Bool) : (s.setKey k p).index = s.index := rfl
@[simp] theorem State.setKey_pc (s : State) (k : Fin 16) (p : Bool) : (s.setKey k p).pc = s.pc := rfl
@[simp] theorem State.setKey_sp (s : State) (k : Fin 16) (p : Bool) : (s.setKey k p).sp = s.sp := rfl
@[simp] theorem State.setKey_stack (s : State) (k : Fin 16) (p : Bool) : (s.setKey k p).stack = s.stack := rfl
@[simp] theorem State.setKey_dt (s : State) (k : Fin 16) (p : Bool) : (s.setKey k p).dt = s.dt := rfl
@[simp] theorem State.setKey_st (s : State) (k : Fin 16) (p : Bool) : (s.setKey k p).st = s.st := rfl
@[simp] theorem State.setKey_fb (s : State) (k : Fin 16) (p : Bool) : (s.setKey k p).fb = s.fb := rfl
@[simp] theorem State.setKey_keys (s : State) (k : Fin 16) (p : Bool) : (s.setKey k p).keys = s.keys.set k p := rfl
@[simp] theorem State.setKey_mem (s : State) (k : Fin 16) (p : Bool) : (s.setKey k p).mem = s.mem := rfl
@[simp] theorem State.setKey_runState (s : State) (k : Fin 16) (p : Bool) : (s.setKey k p).runState = s.runState := rfl
@[simp] theorem State.setKey_faultKind (s : State) (k : Fin 16) (p : Bool) : (s.setKey k p).faultKind = s.faultKind := rfl
@[simp] theorem State.setKey_faultWord (s : State) (k : Fin 16) (p : Bool) : (s.setKey k p).faultWord = s.faultWord := rfl
@[simp] theorem State.setKey_faultPc (s : State) (k : Fin 16) (p : Bool) : (s.setKey k p).faultPc = s.faultPc := rfl
@[simp] theorem State.setKey_loaded (s : State) (k : Fin 16) (p : Bool) : (s.setKey k p).loaded = s.loaded := rfl
@[simp] theorem State.setKey_params (s : State) (k : Fin 16) (p : Bool) : (s.setKey k p).params = s.params := rfl
@[simp] theorem State.setKey_draws (s : State) (k : Fin 16) (p : Bool) : (s.setKey k p).draws = s.draws := rfl

/-! ### skipIf: only PC, under the condition -/

@[simp] theorem State.skipIf_v (s : State) (c : Bool) : (s.skipIf c).v = s.v := by cases c <;> rfl
@[simp] theorem State.skipIf_index (s : State) (c : Bool) : (s.skipIf c).index = s.index := by cases c <;> rfl
@[simp] theorem State.skipIf_pc (s : State) (c : Bool) : (s.skipIf c).pc = if c then s.pc + 2 else s.pc := by
  cases c <;> rfl
@[simp] theorem State.skipIf_sp (s : State) (c : Bool) : (s.skipIf c).sp = s.sp := by cases c <;> rfl
@[simp] theorem State.skipIf_stack (s : State) (c : Bool) : (s.skipIf c).stack = s.stack := by cases c <;> rfl
@[simp] theorem State.skipIf_dt (s : State) (c : Bool) : (s.skipIf c).dt = s.dt := by cases c <;> rfl
@[simp] theorem State.skipIf_st (s : State) (c : Bool) : (s.skipIf c).st = s.st := by cases c <;> rfl
@[simp] theorem State.skipIf_fb (s : State) (c : Bool) : (s.skipIf c).fb = s.fb := by cases c <;> rfl
@[simp] theorem State.skipIf_keys (s : State) (c : Bool) : (s.skipIf c).keys = s.keys := by cases c <;> rfl
@[simp] theorem State.skipIf_mem (s : State) (c : Bool) : (s.skipIf c).mem = s.mem := by cases c <;> rfl
@[simp] theorem State.skipIf_runState (s : State) (c : Bool) : (s.skipIf c).runState = s.runState := by cases c <;> rfl
@[simp] theorem State.skipIf_faultKind (s : State) (c : Bool) : (s.skipIf c).faultKind = s.faultKind := by cases c <;> rfl
@[simp] theorem State.skipIf_faultWord (s : State) (c : Bool) : (s.skipIf c).faultWord = s.faultWord := by cases c <;> rfl
@[simp] theorem State.skipIf_faultPc (s : State) (c : Bool) : (s.skipIf c).faultPc = s.faultPc := by cases c <;> rfl
@[simp] theorem State.skipIf_loaded (s : State) (c : Bool) : (s.skipIf c).loaded = s.loaded := by cases c <;> rfl
@[simp] theorem State.skipIf_params (s : State) (c : Bool) : (s.skipIf c).params = s.params := by cases c <;> rfl
@[simp] theorem State.skipIf_draws (s : State) (c : Bool) : (s.skipIf c).draws = s.draws := by cases c <;> rfl

end Sys2Proof.Machine
end

