-- ==== Sys2Proof/Laws/Draw.lean ====
section
/-! SUPPORT. The frame buffer and the sprite: a draw is a plot of distinct points, each toggled once (R86), and says
what every pixel and the collision are after it. -/

namespace Sys2Proof.Machine

/-- A toggle changes its own pixel and no other. -/
theorem FrameBuffer.pixel_toggle (fb : FrameBuffer) (px qx : Fin 64) (py qy : Fin 32) :
    (fb.toggle px py).pixel qx qy = (fb.pixel qx qy ^^ decide ((qx, qy) = (px, py))) := by
  simp only [FrameBuffer.pixel, FrameBuffer.toggle, Vector.get_eq_getElem, Vector.getElem_set]
  by_cases hy : py.val = qy.val
  · obtain rfl := Fin.ext hy
    by_cases hx : qx = px
    · subst hx
      simp
    · have hxn : ¬ qx.val = px.val := fun e => hx (Fin.ext e)
      simp [hx, hxn]
  · have hyn : ¬ qy = py := fun e => hy (by rw [e])
    simp [hy, hyn]

/-- Points plotted one after the other. -/
def Canvas.plotAll (d : Canvas) (ps : List (Fin 64 × Fin 32)) : Canvas := ps.foldl (fun d p => d.plot p.1 p.2) d

/-- Distinct points plotted: exactly their pixels toggle, and the collision is that one of them was on. -/
theorem Canvas.plotAll_spec (ps : List (Fin 64 × Fin 32)) : ∀ d : Canvas, ps.Nodup →
    (∀ qx qy, (d.plotAll ps).fb.pixel qx qy = (d.fb.pixel qx qy ^^ decide ((qx, qy) ∈ ps))) ∧
    (d.plotAll ps).coll = (d.coll || ps.any (fun p => d.fb.pixel p.1 p.2)) := by
  induction ps with
  | nil => intro d _; simp [Canvas.plotAll]
  | cons p ps ih =>
    intro d hn
    obtain ⟨hp, hn⟩ := List.nodup_cons.mp hn
    obtain ⟨h1, h2⟩ := ih (d.plot p.1 p.2) hn
    have e : d.plotAll (p :: ps) = (d.plot p.1 p.2).plotAll ps := rfl
    refine ⟨fun qx qy => ?_, ?_⟩
    · rw [e, h1]
      simp only [Canvas.plot, FrameBuffer.pixel_toggle, List.mem_cons]
      by_cases hq : (qx, qy) = p
      · subst hq; simp [hp]
      · simp [hq]
    · rw [e, h2]
      have : (ps.any fun q => (d.plot p.1 p.2).fb.pixel q.1 q.2) = ps.any fun q => d.fb.pixel q.1 q.2 := by
        rw [Bool.eq_iff_iff, List.any_eq_true, List.any_eq_true]
        refine exists_congr fun q => and_congr_right fun hq => ?_
        have hne : ¬ (q.1, q.2) = (p.1, p.2) := fun h => hp (by cases p; cases q; simp_all)
        simp only [Canvas.plot, FrameBuffer.pixel_toggle, hne, decide_false, Bool.xor_false]
      rw [this, List.any_cons, Canvas.plot, Bool.or_assoc]

/-- The points a sprite row plots. -/
def rowPoints (x0 : Nat) (py : Fin 32) (row : Byte) : List (Fin 64 × Fin 32) :=
  (spriteColumns.filter (spriteBit row)).map (fun c => (wrapColumn x0 c, py))

/-- The points the sprite rows r, r + 1, ... plot. -/
def spritePoints (x0 y0 r : Nat) : List Byte → List (Fin 64 × Fin 32)
  | [] => []
  | row :: rows => rowPoints x0 (wrapRow y0 r) row ++ spritePoints x0 y0 (r + 1) rows

theorem Canvas.plotRow_eq (d : Canvas) (x0 : Nat) (py : Fin 32) (row : Byte) :
    d.plotRow x0 py row = d.plotAll (rowPoints x0 py row) := by
  unfold Canvas.plotRow Canvas.plotAll rowPoints
  rw [List.foldl_map, List.foldl_filter]; rfl

theorem Canvas.plotRows_eq (x0 y0 : Nat) (rows : List Byte) : ∀ (d : Canvas) (r : Nat),
    d.plotRows x0 y0 r rows = d.plotAll (spritePoints x0 y0 r rows) := by
  induction rows with
  | nil => intro d r; rfl
  | cons row rows ih =>
    intro d r
    rw [Canvas.plotRows, ih, Canvas.plotRow_eq, spritePoints, Canvas.plotAll, Canvas.plotAll, Canvas.plotAll,
      List.foldl_append]

theorem mem_spriteColumns (c : Nat) : c ∈ spriteColumns ↔ c < 8 := by
  simp only [spriteColumns, List.mem_cons, List.not_mem_nil, or_false]; omega

theorem mem_rowPoints (x0 : Nat) (py : Fin 32) (row : Byte) (qx : Fin 64) (qy : Fin 32) :
    (qx, qy) ∈ rowPoints x0 py row ↔
      ∃ c, c < 8 ∧ row.getLsbD (7 - c) = true ∧ qx.val = (x0 + c) % 64 ∧ qy = py := by
  simp only [rowPoints, List.mem_map, List.mem_filter, mem_spriteColumns, spriteBit, Prod.mk.injEq]
  constructor
  · rintro ⟨c, ⟨h8, hb⟩, rfl, rfl⟩; exact ⟨c, h8, hb, rfl, rfl⟩
  · rintro ⟨c, h8, hb, hx, rfl⟩; exact ⟨c, ⟨h8, hb⟩, Fin.ext hx.symm, rfl⟩

/-- A point is plotted exactly when the sprite bit over it is set. -/
theorem mem_spritePoints (x0 y0 : Nat) (qx : Fin 64) (qy : Fin 32) (rows : List Byte) : ∀ r : Nat,
    (qx, qy) ∈ spritePoints x0 y0 r rows ↔
      ∃ k c, ∃ h : k < rows.length, c < 8 ∧ rows[k].getLsbD (7 - c) = true ∧
        qx.val = (x0 + c) % 64 ∧ qy.val = (y0 + (r + k)) % 32 := by
  induction rows with
  | nil => intro r; simp [spritePoints]
  | cons row rows ih =>
    intro r
    rw [spritePoints, List.mem_append, mem_rowPoints, ih]
    constructor
    · rintro (⟨c, h8, hb, hx, rfl⟩ | ⟨k, c, hk, h8, hb, hx, hy⟩)
      · exact ⟨0, c, by simp, h8, hb, hx, rfl⟩
      · exact ⟨k + 1, c, by simpa using hk, h8, hb, hx, by rw [hy]; congr 1; omega⟩
    · rintro ⟨k, c, hk, h8, hb, hx, hy⟩
      cases k with
      | zero => exact .inl ⟨c, h8, hb, hx, Fin.ext hy⟩
      | succ k => exact .inr ⟨k, c, by simpa using hk, h8, hb, hx, by rw [hy]; congr 1; omega⟩

theorem rowPoints_nodup (x0 : Nat) (py : Fin 32) (row : Byte) : (rowPoints x0 py row).Nodup := by
  refine List.Nodup.map_on ?_ (List.Nodup.filter _ (by decide))
  intro a ha b hb h
  simp only [List.mem_filter, mem_spriteColumns] at ha hb
  have : (x0 + a) % 64 = (x0 + b) % 64 := congrArg (fun p : Fin 64 × Fin 32 => p.1.val) h
  omega

/-- No point is plotted twice in one draw of at most 32 rows (R86). -/
theorem spritePoints_nodup (x0 y0 : Nat) (rows : List Byte) : ∀ r : Nat, rows.length ≤ 32 →
    (spritePoints x0 y0 r rows).Nodup := by
  induction rows with
  | nil => intro r _; exact List.nodup_nil
  | cons row rows ih =>
    intro r hl
    simp only [List.length_cons] at hl
    rw [spritePoints, List.nodup_append]
    refine ⟨rowPoints_nodup _ _ _, ih _ (by omega), ?_⟩
    rintro ⟨ax, ay⟩ ha ⟨bx, by'⟩ hb heq
    cases heq
    obtain ⟨c, _, _, _, rfl⟩ := (mem_rowPoints _ _ _ _ _).mp ha
    obtain ⟨k, c', hk, _, _, _, hy⟩ := (mem_spritePoints _ _ _ _ _ _).mp hb
    have : (wrapRow y0 r).val = (y0 + r) % 32 := rfl
    omega

/-- A whole draw of at most 32 rows: exactly the points under set sprite bits toggle, and the collision is that one of
them was on. -/
theorem drawSprite_spec (fb : FrameBuffer) (x0 y0 : Nat) (rows : List Byte) (h : rows.length ≤ 32) :
    (∀ qx qy, (drawSprite fb x0 y0 rows).fb.pixel qx qy =
      (fb.pixel qx qy ^^ decide ((qx, qy) ∈ spritePoints x0 y0 0 rows))) ∧
    (drawSprite fb x0 y0 rows).coll = (spritePoints x0 y0 0 rows).any (fun p => fb.pixel p.1 p.2) := by
  unfold drawSprite
  rw [Canvas.plotRows_eq]
  obtain ⟨h1, h2⟩ := Canvas.plotAll_spec _ { fb := fb, coll := false } (spritePoints_nodup x0 y0 rows 0 h)
  exact ⟨h1, by rw [h2, Bool.false_or]⟩

/-- Frame buffers with the same pixels are equal. -/
theorem FrameBuffer.ext_pixel (f g : FrameBuffer) (h : ∀ px py, f.pixel px py = g.pixel px py) : f = g := by
  apply Vector.ext
  intro i hi
  apply BitVec.eq_of_getLsbD_eq
  intro j hj
  exact h ⟨j, hj⟩ ⟨i, hi⟩

end Sys2Proof.Machine
end

