-- ==== Sys2Proof/Laws/Memory.lean ====
section
/-! SUPPORT. Memory: reads after writes, the canonical form kept by every operation, the memory port and the blocks. -/

namespace Sys2Proof.Machine

theorem Memory.read_erase (d : Nat → Byte) (m : List Host.Cell) (a c : Nat) :
    Memory.read d (Memory.erase m a) c = if c = a then d c else Memory.read d m c := by
  induction m with
  | nil => simp [Memory.erase, Memory.read]
  | cons e m ih =>
    obtain ⟨k, v⟩ := e
    rw [Memory.erase] at ih ⊢
    by_cases hk : k = a
    · subst hk
      simp only [List.filter_cons, bne_self_eq_false, Bool.false_eq_true, if_false, ih, Memory.read]
      split_ifs <;> simp_all
    · simp only [List.filter_cons, bne_iff_ne, ne_eq, hk, not_false_eq_true, if_true, Memory.read, ih]
      split_ifs <;> simp_all

theorem Memory.read_insert (d : Nat → Byte) (m : List Host.Cell) (a : Nat) (b : Byte) (c : Nat)
    (h : ∀ e ∈ m, e.1 ≠ a) :
    Memory.read d (Memory.insert m a b) c = if c = a then b else Memory.read d m c := by
  induction m with
  | nil => simp [Memory.insert, Memory.read, eq_comm]
  | cons e m ih =>
    obtain ⟨k, v⟩ := e
    have hk : k ≠ a := h (k, v) (by simp)
    have ih' := ih (fun e he => h e (by simp [he]))
    simp only [Memory.insert]
    by_cases hc : c = a
    · subst hc
      by_cases hlt : k < c <;> simp [hlt, Memory.read, ih', hk]
    · by_cases hlt : k < a <;> simp [hlt, Memory.read, ih', hc, Ne.symm hc]

/-- A write is read back at its address and nowhere else, whatever the list. -/
theorem Memory.read_write (d : Nat → Byte) (m : List Host.Cell) (a : Nat) (b : Byte) (c : Nat) :
    Memory.read d (Memory.write d m a b) c = if c = a then b else Memory.read d m c := by
  unfold Memory.write
  split_ifs with hb hc hc
  · rw [Memory.read_erase, if_pos hc, hc, hb]
  · rw [Memory.read_erase, if_neg hc]
  all_goals
    rw [Memory.read_insert _ _ _ _ _ (by simp [Memory.erase]), Memory.read_erase]; simp [hc]

theorem Memory.wf_erase (d : Nat → Byte) (m : List Host.Cell) (a : Nat) (h : Memory.wf d m) :
    Memory.wf d (Memory.erase m a) :=
  ⟨h.1.filter _, fun c hc => h.2 c (List.mem_filter.mp hc).1⟩

theorem Memory.mem_insert (m : List Host.Cell) (a : Nat) (b : Byte) (e : Host.Cell) :
    e ∈ Memory.insert m a b → e = (a, b) ∨ e ∈ m := by
  induction m with
  | nil => simp [Memory.insert]
  | cons c m ih =>
    obtain ⟨k, v⟩ := c
    simp only [Memory.insert]
    split_ifs <;> simp only [List.mem_cons] <;> tauto

theorem Memory.pairwise_insert (m : List Host.Cell) (a : Nat) (b : Byte)
    (h : m.Pairwise (fun c e => c.1 < e.1)) (ha : ∀ e ∈ m, e.1 ≠ a) :
    (Memory.insert m a b).Pairwise (fun c e => c.1 < e.1) := by
  induction m with
  | nil => simp [Memory.insert]
  | cons c m ih =>
    obtain ⟨k, v⟩ := c
    rw [List.pairwise_cons] at h
    have hka : k ≠ a := ha (k, v) (by simp)
    simp only [Memory.insert]
    split_ifs with hk
    · refine List.pairwise_cons.mpr ⟨fun e he => ?_, ih h.2 (fun e he => ha e (by simp [he]))⟩
      rcases Memory.mem_insert m a b e he with rfl | he
      · exact hk
      · exact h.1 e he
    · refine List.pairwise_cons.mpr ⟨fun e he => ?_, List.pairwise_cons.mpr h⟩
      rcases List.mem_cons.mp he with rfl | he
      · show a < k; omega
      · have := h.1 e he
        show a < e.1; simp only at this; omega

/-- Every write keeps the canonical form. -/
theorem Memory.wf_write (d : Nat → Byte) (m : List Host.Cell) (a : Nat) (b : Byte)
    (h : Memory.wf d m) (ha : a < Config.memSize) : Memory.wf d (Memory.write d m a b) := by
  have he := Memory.wf_erase d m a h
  unfold Memory.write
  split_ifs with hb
  · exact he
  · refine ⟨Memory.pairwise_insert _ _ _ he.1 (by simp [Memory.erase]), fun c hc => ?_⟩
    rcases Memory.mem_insert _ _ _ _ hc with rfl | hc
    · exact ⟨ha, hb⟩
    · exact he.2 c hc

/-- The empty memory is canonical: it reads as the reset contents everywhere. -/
theorem Memory.wf_nil (d : Nat → Byte) : Memory.wf d [] := by simp [Memory.wf]

/-- A cell write is read back at its address and nowhere else. -/
theorem State.cell_setCell (s : State) (a : Nat) (b : Byte) (c : Nat) :
    (s.setCell a b).cell c = if c = a then b else s.cell c :=
  Memory.read_write _ _ _ _ _

/-- A cell write keeps the canonical form. -/
theorem State.setCell_memoryCanonical (s : State) (a : Nat) (b : Byte) (h : s.memoryCanonical)
    (ha : a < Config.memSize) : (s.setCell a b).memoryCanonical := Memory.wf_write _ _ _ _ h ha

/-- `EffAddr` answers the address modulo 0x1000 or the one fault of the memory port. -/
theorem effAddr_cases (p : OorPolicy) (a : Nat) :
    (effAddr p a = .ok (reach a) ∧ (p = .mask ∨ a < Config.memSize)) ∨
    (effAddr p a = .error .addressRange ∧ p = .fault ∧ Config.memSize ≤ a) := by
  cases p
  · exact .inl ⟨rfl, .inl rfl⟩
  · by_cases h : a < Config.memSize
    · exact .inl ⟨by simp only [effAddr, h, if_true, reach, Nat.mod_eq_of_lt h], .inr h⟩
    · exact .inr ⟨by simp only [effAddr, h, if_false], rfl, by omega⟩

theorem reach_lt (a : Nat) : reach a < Config.memSize := Nat.mod_lt _ (by decide)

/-- A read answers the reached cell or the fault of the memory port. -/
theorem State.memRead_eq (s : State) (a : Nat) :
    s.memRead a = if accessOk s.params.oorPolicy a 1 then .ok (s.cell (reach a)) else .error .addressRange := by
  unfold State.memRead accessOk
  rcases effAddr_cases s.params.oorPolicy a with ⟨h, h1⟩ | ⟨h, h1, h2⟩
  · rw [h, if_pos]; rcases h1 with h1 | h1
    · exact .inl h1
    · exact .inr (.inr (by omega))
  · rw [h, if_neg]; simp [h1]; omega

/-- A write sets the reached cell or answers the fault of the memory port. -/
theorem State.memWrite_eq (s : State) (a : Nat) (b : Byte) :
    s.memWrite a b = if accessOk s.params.oorPolicy a 1 then .ok (s.setCell (reach a) b) else .error .addressRange := by
  unfold State.memWrite accessOk
  rcases effAddr_cases s.params.oorPolicy a with ⟨h, h1⟩ | ⟨h, h1, h2⟩
  · rw [h, if_pos]; rcases h1 with h1 | h1
    · exact .inl h1
    · exact .inr (.inr (by omega))
  · rw [h, if_neg]; simp [h1]; omega

theorem accessOk_succ (p : OorPolicy) (a n : Nat) :
    accessOk p a (n + 1) ↔ accessOk p a 1 ∧ accessOk p (a + 1) n := by
  unfold accessOk Config.memSize
  by_cases hp : p = .mask
  · simp [hp]
  · simp only [hp, false_or]; omega

/-- A block read answers the reached cells in order, or the fault of the memory port. -/
theorem State.readBlock_eq (s : State) (n : Nat) : ∀ a, s.readBlock a n =
    if accessOk s.params.oorPolicy a n then .ok ((List.range n).map (fun k => s.cell (reach (a + k))))
    else .error .addressRange := by
  induction n with
  | zero => intro a; simp [State.readBlock, accessOk]
  | succ n ih =>
    intro a
    rw [State.readBlock, State.memRead_eq, ih]
    simp only [accessOk_succ s.params.oorPolicy a n]
    by_cases h1 : accessOk s.params.oorPolicy a 1
    · by_cases h2 : accessOk s.params.oorPolicy (a + 1) n
      · simp only [h1, h2, if_true, and_self]
        rw [List.range_succ_eq_map, List.map_cons, List.map_map]
        simp only [Nat.add_zero, Function.comp_def, Nat.succ_eq_add_one, Nat.add_assoc, Nat.add_comm 1]
      · simp only [h1, h2, if_true, and_false, if_false]
    · simp only [h1, if_false, false_and]

/-- A block write changes memory only, or answers the fault of the memory port. -/
theorem State.writeBlock_cases (bs : List Byte) : ∀ (s : State) (a : Nat),
    (accessOk s.params.oorPolicy a bs.length ∧ ∃ m, s.writeBlock a bs = .ok { s with mem := m }) ∨
    (¬ accessOk s.params.oorPolicy a bs.length ∧ s.writeBlock a bs = .error .addressRange) := by
  induction bs with
  | nil => intro s a; exact .inl ⟨by simp [accessOk], s.mem, rfl⟩
  | cons b bs ih =>
    intro s a
    rw [State.writeBlock, State.memWrite_eq, List.length_cons, accessOk_succ]
    by_cases h1 : accessOk s.params.oorPolicy a 1
    · simp only [h1, if_true, true_and]
      rcases ih (s.setCell (reach a) b) (a + 1) with ⟨h2, m, h3⟩ | ⟨h2, h3⟩
      · exact .inl ⟨h2, m, h3⟩
      · exact .inr ⟨h2, h3⟩
    · exact .inr ⟨fun h => h1 h.1, by simp only [h1, if_false]⟩

/-- The cells after a block write of at most 0x1000 bytes: byte k at the cell address a + k reaches, every other cell
as before. -/
theorem State.cell_writeBlock (bs : List Byte) : ∀ (s t : State) (a : Nat), bs.length ≤ Config.memSize →
    s.writeBlock a bs = .ok t →
    (∀ (k : Nat) (h : k < bs.length), t.cell (reach (a + k)) = bs[k]) ∧
    ∀ c, (∀ k < bs.length, c ≠ reach (a + k)) → t.cell c = s.cell c := by
  induction bs with
  | nil =>
    intro s t a _ h
    simp only [State.writeBlock, Except.ok.injEq] at h; subst h
    exact ⟨fun k h => by simp at h, fun c _ => rfl⟩
  | cons b bs ih =>
    intro s t a hl h
    rw [State.writeBlock, State.memWrite_eq] at h
    by_cases h1 : accessOk s.params.oorPolicy a 1
    · simp only [h1, if_true] at h
      simp only [List.length_cons] at hl
      obtain ⟨hin, hout⟩ := ih _ _ (a + 1) (by omega) h
      refine ⟨fun k hk => ?_, fun c hc => ?_⟩
      · cases k with
        | zero =>
          rw [hout (reach (a + 0)) (fun k hk => ?_), State.cell_setCell, Nat.add_zero, if_pos rfl, List.getElem_cons_zero]
          unfold reach Config.memSize at *; omega
        | succ k =>
          have := hin k (by simpa using hk)
          rw [List.getElem_cons_succ, ← this, Nat.add_assoc, Nat.add_comm 1]
      · rw [hout c (fun k hk => ?_), State.cell_setCell, if_neg]
        · have := hc 0 (by simp); simpa using this
        · have := hc (k + 1) (by simp only [List.length_cons]; omega)
          rw [Nat.add_assoc, Nat.add_comm 1]; exact this
    · simp only [h1, if_false] at h; cases h

/-- A block write keeps the canonical form. -/
theorem State.writeBlock_memoryCanonical (bs : List Byte) : ∀ (s t : State) (a : Nat), s.memoryCanonical →
    s.writeBlock a bs = .ok t → t.memoryCanonical := by
  induction bs with
  | nil => intro s t a hs h; simp only [State.writeBlock, Except.ok.injEq] at h; exact h ▸ hs
  | cons b bs ih =>
    intro s t a hs h
    rw [State.writeBlock, State.memWrite_eq] at h
    by_cases h1 : accessOk s.params.oorPolicy a 1
    · simp only [h1, if_true] at h
      exact ih _ _ _ (s.setCell_memoryCanonical _ _ hs (reach_lt a)) h
    · simp only [h1, if_false] at h; cases h

/-- The fetch: the two reached bytes, the first in the high half, or the fault of the memory port. -/
theorem State.fetchWord_eq (s : State) :
    s.fetchWord = if accessOk s.params.oorPolicy s.pc.toNat 2 then
      .ok (wordOfBytes (s.cell (reach s.pc.toNat)) (s.cell (reach (s.pc.toNat + 1))))
    else .error .addressRange := by
  rw [State.fetchWord, State.memRead_eq, State.memRead_eq]
  have hs := accessOk_succ s.params.oorPolicy s.pc.toNat 1
  by_cases h1 : accessOk s.params.oorPolicy s.pc.toNat 1
  · by_cases h2 : accessOk s.params.oorPolicy (s.pc.toNat + 1) 1
    · rw [if_pos h1, if_pos h2, if_pos (hs.mpr ⟨h1, h2⟩)]
    · rw [if_pos h1, if_neg h2, if_neg (fun h => h2 (hs.mp h).2)]
  · rw [if_neg h1, if_neg (fun h => h1 (hs.mp h).1)]

end Sys2Proof.Machine
end

