-- ==== Sys2Proof/Laws/PerInstr.lean ====
section
/-! SUPPORT. The family RowCovers: the word the encoder gives an instruction is covered by the instruction's own row of
the opcode table, the encoder being written from the layouts (R44) and the row from the table (R52). -/

namespace Sys2Proof.Laws

/-- Format ADDR under its mask. -/
theorem formAddr_covered (op : BitVec 4) (nnn : Addr12) : formAddr op nnn &&& 0xF000#16 = formAddr op 0 := by
  apply BitVec.eq_of_getLsbD_eq
  intro i hi
  simp only [formAddr, BitVec.getLsbD_and, BitVec.getLsbD_append]
  interval_cases i <;> simp

/-- Format XNN with NN an operand, under its mask. -/
theorem formXnn_covered (op : BitVec 4) (x : Reg) (nn : Byte) : formXnn op x nn &&& 0xF000#16 = formAddr op 0 := by
  apply BitVec.eq_of_getLsbD_eq
  intro i hi
  simp only [formXnn, formAddr, BitVec.getLsbD_and, BitVec.getLsbD_append]
  interval_cases i <;> simp

/-- Format X, NN being the sub-operation, under its mask. -/
theorem formX_covered (op : BitVec 4) (x : Reg) (nn : Byte) :
    formXnn op x nn &&& 0xF0FF#16 = formXnn op 0 nn := by
  apply BitVec.eq_of_getLsbD_eq
  intro i hi
  simp only [formXnn, BitVec.getLsbD_and, BitVec.getLsbD_append]
  interval_cases i <;> simp [nibble]

/-- Format XY under its mask. -/
theorem formXy_covered (op : BitVec 4) (x y : Reg) (n : BitVec 4) :
    formXyn op x y n &&& 0xF00F#16 = formXyn op 0 0 n := by
  apply BitVec.eq_of_getLsbD_eq
  intro i hi
  simp only [formXyn, BitVec.getLsbD_and, BitVec.getLsbD_append]
  interval_cases i <;> simp [nibble]

/-- Format XYN, the last four bits being an operand, under its mask. -/
theorem formXyn_covered (op : BitVec 4) (x y : Reg) (n : BitVec 4) :
    formXyn op x y n &&& 0xF000#16 = formAddr op 0 := by
  apply BitVec.eq_of_getLsbD_eq
  intro i hi
  simp only [formXyn, formAddr, BitVec.getLsbD_and, BitVec.getLsbD_append]
  interval_cases i <;> simp

/-- The instruction's own row covers its encoded word. -/
def RowCovers.Statement (i : Instr) : Prop := i.row.covers (encode i)

theorem RowCovers.nop : RowCovers.Statement .nop := rfl
theorem RowCovers.cls : RowCovers.Statement .cls := rfl
theorem RowCovers.ret : RowCovers.Statement .ret := rfl
theorem RowCovers.jp (nnn : Addr12) : RowCovers.Statement (.jp nnn) := formAddr_covered _ _
theorem RowCovers.call (nnn : Addr12) : RowCovers.Statement (.call nnn) := formAddr_covered _ _
theorem RowCovers.seByte (x : Reg) (nn : Byte) : RowCovers.Statement (.seByte x nn) := formXnn_covered _ _ _
theorem RowCovers.sneByte (x : Reg) (nn : Byte) : RowCovers.Statement (.sneByte x nn) := formXnn_covered _ _ _
theorem RowCovers.seReg (x : Reg) (y : Reg) : RowCovers.Statement (.seReg x y) := formXy_covered _ _ _ _
theorem RowCovers.ldByte (x : Reg) (nn : Byte) : RowCovers.Statement (.ldByte x nn) := formXnn_covered _ _ _
theorem RowCovers.addByte (x : Reg) (nn : Byte) : RowCovers.Statement (.addByte x nn) := formXnn_covered _ _ _
theorem RowCovers.ldReg (x : Reg) (y : Reg) : RowCovers.Statement (.ldReg x y) := formXy_covered _ _ _ _
theorem RowCovers.or (x : Reg) (y : Reg) : RowCovers.Statement (.or x y) := formXy_covered _ _ _ _
theorem RowCovers.and (x : Reg) (y : Reg) : RowCovers.Statement (.and x y) := formXy_covered _ _ _ _
theorem RowCovers.xor (x : Reg) (y : Reg) : RowCovers.Statement (.xor x y) := formXy_covered _ _ _ _
theorem RowCovers.addReg (x : Reg) (y : Reg) : RowCovers.Statement (.addReg x y) := formXy_covered _ _ _ _
theorem RowCovers.sub (x : Reg) (y : Reg) : RowCovers.Statement (.sub x y) := formXy_covered _ _ _ _
theorem RowCovers.shr (x : Reg) (y : Reg) : RowCovers.Statement (.shr x y) := formXy_covered _ _ _ _
theorem RowCovers.subn (x : Reg) (y : Reg) : RowCovers.Statement (.subn x y) := formXy_covered _ _ _ _
theorem RowCovers.shl (x : Reg) (y : Reg) : RowCovers.Statement (.shl x y) := formXy_covered _ _ _ _
theorem RowCovers.sneReg (x : Reg) (y : Reg) : RowCovers.Statement (.sneReg x y) := formXy_covered _ _ _ _
theorem RowCovers.ldI (nnn : Addr12) : RowCovers.Statement (.ldI nnn) := formAddr_covered _ _
theorem RowCovers.jpV0 (nnn : Addr12) : RowCovers.Statement (.jpV0 nnn) := formAddr_covered _ _
theorem RowCovers.rnd (x : Reg) (nn : Byte) : RowCovers.Statement (.rnd x nn) := formXnn_covered _ _ _
theorem RowCovers.drw (x : Reg) (y : Reg) (n : Fin 16) : RowCovers.Statement (.drw x y n) := formXyn_covered _ _ _ _
theorem RowCovers.skp (x : Reg) : RowCovers.Statement (.skp x) := formX_covered _ _ _
theorem RowCovers.sknp (x : Reg) : RowCovers.Statement (.sknp x) := formX_covered _ _ _
theorem RowCovers.ldVxDt (x : Reg) : RowCovers.Statement (.ldVxDt x) := formX_covered _ _ _
theorem RowCovers.ldVxK (x : Reg) : RowCovers.Statement (.ldVxK x) := formX_covered _ _ _
theorem RowCovers.ldDtVx (x : Reg) : RowCovers.Statement (.ldDtVx x) := formX_covered _ _ _
theorem RowCovers.ldStVx (x : Reg) : RowCovers.Statement (.ldStVx x) := formX_covered _ _ _
theorem RowCovers.addIVx (x : Reg) : RowCovers.Statement (.addIVx x) := formX_covered _ _ _
theorem RowCovers.ldFVx (x : Reg) : RowCovers.Statement (.ldFVx x) := formX_covered _ _ _
theorem RowCovers.ldBVx (x : Reg) : RowCovers.Statement (.ldBVx x) := formX_covered _ _ _
theorem RowCovers.ldMemVx (x : Reg) : RowCovers.Statement (.ldMemVx x) := formX_covered _ _ _
theorem RowCovers.ldVxMem (x : Reg) : RowCovers.Statement (.ldVxMem x) := formX_covered _ _ _

end Sys2Proof.Laws
end

