-- ==== Sys2Proof/Laws/Registers.lean ====
section
/-! SUPPORT. The register file, the flag writes, the stack, the keys: one lemma per operation that says all it does. -/

namespace Sys2Proof.Machine

theorem State.get_set (v : Vector Byte 16) (x : Reg) (b : Byte) (r : Reg) :
    (v.set x.val b).get r = if r = x then b else v.get r := by
  simp only [Vector.get_eq_getElem, Vector.getElem_set, Fin.ext_iff, eq_comm]

/-- A register write is read back at its register and nowhere else. -/
theorem State.reg_setReg (s : State) (x : Reg) (b : Byte) (r : Reg) :
    (s.setReg x b).reg r = if r = x then b else s.reg r := State.get_set s.v x b r

/-- The registers after the result and then VF are written. -/
theorem State.resultThenFlag_eq (s : State) (x : Reg) (b : Byte) (c : Bool) :
    ∃ vs : Vector Byte 16, s.resultThenFlag x b c = { s with v := vs } ∧
      ∀ r, vs.get r = if r = vf then flagByte c else if r = x then b else s.reg r :=
  ⟨_, rfl, fun r => by simp only [State.get_set, State.setReg_v]; rfl⟩

/-- The registers after VF and then the result are written. -/
theorem State.flagThenResult_eq (s : State) (x : Reg) (b : Byte) (c : Bool) :
    ∃ vs : Vector Byte 16, s.flagThenResult x b c = { s with v := vs } ∧
      ∀ r, vs.get r = if r = x then b else if r = vf then flagByte c else s.reg r :=
  ⟨_, rfl, fun r => by simp only [State.get_set, State.setReg_v]; rfl⟩

/-- The registers after a shift, in either order of its two writes. -/
theorem State.shiftWrite_eq (s : State) (x : Reg) (b : Byte) (c : Bool) :
    ∃ vs : Vector Byte 16, s.shiftWrite x b c = { s with v := vs } ∧
      ∀ r, vs.get r =
        if r = x ∧ r = vf then (if s.params.shiftVfOrder = .flagThenResult then b else flagByte c)
        else if r = x then b else if r = vf then flagByte c else s.reg r := by
  cases h : s.params.shiftVfOrder
  · obtain ⟨vs, h1, h2⟩ := s.flagThenResult_eq x b c
    refine ⟨vs, by simp only [State.shiftWrite, h, h1], fun r => ?_⟩
    rw [h2 r]; simp only [if_true]
    split_ifs <;> first | rfl | (exfalso; tauto)
  · obtain ⟨vs, h1, h2⟩ := s.resultThenFlag_eq x b c
    refine ⟨vs, by simp only [State.shiftWrite, h, h1], fun r => ?_⟩
    rw [h2 r]; simp only [reduceCtorEq, if_false]
    split_ifs <;> first | rfl | (exfalso; tauto)

/-- A block load from register k up: register k + j gets byte j of the list, and nothing else changes. -/
theorem State.setRegs_eq (bs : List Byte) : ∀ (s : State) (k : Nat), ∃ vs : Vector Byte 16,
    s.setRegs k bs = { s with v := vs } ∧
      ∀ r : Reg, vs.get r = if h : k ≤ r.val ∧ r.val - k < bs.length then bs[r.val - k] else s.reg r := by
  induction bs with
  | nil => intro s k; exact ⟨s.v, rfl, fun r => by simp [State.reg]⟩
  | cons b bs ih =>
    intro s k
    by_cases hk : k < 16
    · obtain ⟨vs, h1, h2⟩ := ih (s.setReg ⟨k, hk⟩ b) (k + 1)
      refine ⟨vs, by simp only [State.setRegs, hk, dite_true, h1]; rfl, fun r => ?_⟩
      rw [h2 r, State.reg_setReg]
      by_cases hr : r.val = k
      · subst hr; simp
      · have hne : ¬ r = ⟨k, hk⟩ := fun e => hr (by rw [e])
        by_cases hle : k + 1 ≤ r.val
        · have hs : r.val - k = (r.val - (k + 1)) + 1 := by omega
          simp only [hne, if_false, hs, List.length_cons, List.getElem_cons_succ]
          by_cases hlt : r.val - (k + 1) < bs.length
          · rw [dif_pos ⟨hle, hlt⟩, dif_pos ⟨by omega, by omega⟩]
          · rw [dif_neg (by omega), dif_neg (by omega)]
        · rw [dif_neg (by omega), dif_neg (by omega), if_neg hne]
    · exact ⟨s.v, by simp [State.setRegs, hk], fun r => by
        have := r.isLt
        rw [dif_neg (by omega)]; rfl⟩

/-- The list FX55 stores: x + 1 bytes, byte k being V[k]. -/
theorem State.regsUpTo_length (s : State) (x : Reg) : (s.regsUpTo x).length = x.val + 1 := by
  have := x.isLt
  simp only [State.regsUpTo, List.length_take, Vector.length_toList]; omega

theorem State.regsUpTo_getElem (s : State) (x : Reg) (k : Nat) (h : k < (s.regsUpTo x).length) (h16 : k < 16) :
    (s.regsUpTo x)[k] = s.reg ⟨k, h16⟩ := by
  simp only [State.regsUpTo, List.getElem_take, Vector.getElem_toList, State.reg, Vector.get_eq_getElem]

/-- A conditional skip sets PC and nothing else. -/
theorem State.skipIf_eq (s : State) (c : Bool) :
    s.skipIf c = { s with pc := if c = true then s.pc + 2 else s.pc } := by
  cases c <;> rfl

/-- A push: the slot at SP gets PC and SP grows, or the stack is full. -/
theorem State.pushPc_eq (s : State) :
    s.pushPc = if h : s.sp.val < 16 then
      .ok { s with stack := s.stack.set s.sp.val s.pc, sp := ⟨s.sp.val + 1, by omega⟩ }
    else .error .stackOverflow := rfl

/-- A pop: SP shrinks and PC is the slot below, or the stack is empty. -/
theorem State.popPc_eq (s : State) :
    s.popPc = if h : 0 < s.sp.val then
      .ok { s with sp := ⟨s.sp.val - 1, by omega⟩, pc := s.stack.get ⟨s.sp.val - 1, by omega⟩ }
    else .error .stackUnderflow := rfl

/-- The lowest key: it is pressed and no lower one is. -/
theorem State.lowestKey_some (s : State) (k : Fin 16) :
    s.lowestKey = some k ↔ s.key k = true ∧ ∀ j < k, s.key j = false := by
  unfold State.lowestKey keyNumbers
  generalize s.key = f
  fin_cases k <;>
    simp [List.find?_cons, Fin.forall_fin_succ, Fin.lt_def] <;>
    (repeat' split) <;> simp_all

/-- No lowest key: none is pressed. -/
theorem State.lowestKey_none (s : State) : s.lowestKey = none ↔ ∀ j, s.key j = false := by
  unfold State.lowestKey keyNumbers
  generalize s.key = f
  simp [Fin.forall_fin_succ]

end Sys2Proof.Machine
end

