-- ==== Sys2Proof/Laws/Step.lean ====
section
/-! SUPPORT. What a step can do, said once: the cases of `step`, of `State.commit` and of a host operation. -/

namespace Sys2Proof.Machine

/-- A STEP that answers a next state either idles FAULTED, or takes a fetch fault, or takes UNIMPLEMENTED_OPCODE, or
executes the decoded instruction. -/
theorem step_cases {s t : State} (h : step s = .next t) : s.loaded = true ∧
    ((s.runState = .faulted ∧ t = s) ∨
     (s.runState = .running ∧ ∃ f, s.fetchWord = .error f ∧ t = s.takeFault f 0) ∨
     (s.runState = .running ∧ ∃ w e, s.fetchWord = .ok w ∧ decodeWord w = .error e ∧
        t = s.takeFault .unimplementedOpcode w) ∨
     (s.runState = .running ∧ ∃ w i, s.fetchWord = .ok w ∧ decodeWord w = .ok i ∧ exec i s = .next t)) := by
  unfold step at h
  split at h
  · cases h
  · refine ⟨‹_›, ?_⟩
    split at h
    · cases h; exact .inl ⟨‹_›, rfl⟩
    · split at h
      · cases h; exact .inr (.inl ⟨‹_›, _, ‹_›, rfl⟩)
      · split at h
        · cases h; exact .inr (.inr (.inl ⟨‹_›, _, _, ‹_›, ‹_›, rfl⟩))
        · exact .inr (.inr (.inr ⟨‹_›, _, _, ‹_›, ‹_›, h⟩))

/-- The end of a STEP: the completed state, or the fault taken in the state the STEP began in. -/
theorem State.commit_cases {s t : State} {w : Word} {r : Except Fault State} (h : s.commit w r = .next t) :
    r = .ok t ∨ ∃ f, r = .error f ∧ t = s.takeFault f w := by
  unfold State.commit at h
  split at h
  · cases h; exact .inl rfl
  · cases h; exact .inr ⟨_, rfl, rfl⟩

/-- A STEP whose work `f` follows a check `r` that can fault: the check's answer carried through `f`, or the check's
fault taken in the state the STEP began in. -/
theorem State.commit_map_cases {α : Type} {s t : State} {w : Word} {r : Except Fault α} {f : α → State}
    (h : s.commit w (r.map f) = .next t) :
    (∃ a, r = .ok a ∧ t = f a) ∨ ∃ e, r = .error e ∧ t = s.takeFault e w := by
  cases r with
  | ok a => cases h; exact .inl ⟨a, rfl, rfl⟩
  | error e => cases h; exact .inr ⟨e, rfl, rfl⟩

/-- The key index: a key number, or the one fault, which needs KEY_INDEX_POLICY = FAULT. -/
theorem keyIndex_cases (p : KeyIndexPolicy) (v : Byte) :
    keyIndex p v = .ok (lowNibble v) ∨ (keyIndex p v = .error .keyIndexRange ∧ p = .fault) := by
  unfold keyIndex
  split
  · exact .inl rfl
  · cases p
    · exact .inr ⟨rfl, rfl⟩
    · exact .inl rfl

/-- A fault taken: only RUN_STATE and the fault registers change. -/
theorem State.takeFault_eq (s : State) (f : Fault) (w : Word) :
    s.takeFault f w = { s with runState := .faulted, faultKind := some f, faultWord := w, faultPc := s.pc } := rfl

/-- The image copied: memory changes only, byte j at address a + j, every other cell as before. -/
theorem State.copyImage_eq (bs : List Byte) : ∀ (s : State) (a : Nat), ∃ m,
    s.copyImage a bs = { s with mem := m } ∧
    (∀ (j : Nat) (h : j < bs.length), ({ s with mem := m } : State).cell (a + j) = bs[j]) ∧
    ∀ c, c < a ∨ a + bs.length ≤ c → ({ s with mem := m } : State).cell c = s.cell c := by
  induction bs with
  | nil => intro s a; exact ⟨s.mem, rfl, fun j h => by simp at h, fun c _ => rfl⟩
  | cons b bs ih =>
    intro s a
    obtain ⟨m, h1, h2, h3⟩ := ih (s.setCell a b) (a + 1)
    refine ⟨m, h1, fun j hj => ?_, fun c hc => ?_⟩
    · cases j with
      | zero =>
        have := h3 (a + 0) (by omega)
        rw [State.cell_setCell, Nat.add_zero, if_pos rfl] at this
        exact this
      | succ j =>
        have := h2 j (by simpa using hj)
        rw [List.getElem_cons_succ, ← this, Nat.add_assoc, Nat.add_comm 1]; rfl
    · simp only [List.length_cons] at hc
      have := h3 c (by omega)
      rw [State.cell_setCell, if_neg (by omega)] at this
      exact this

/-- The image copied keeps memory canonical when it ends below 0x1000. -/
theorem State.copyImage_memoryCanonical (bs : List Byte) : ∀ (s : State) (a : Nat), a + bs.length ≤ Config.memSize →
    s.memoryCanonical → (s.copyImage a bs).memoryCanonical := by
  induction bs with
  | nil => intro s a _ h; exact h
  | cons b bs ih =>
    intro s a ha h
    simp only [List.length_cons] at ha
    exact ih _ _ (by omega) (s.setCell_memoryCanonical a b h (by omega))

/-- One timer down: by one, stopping at zero. -/
theorem timerDown_toNat (b : Byte) : (timerDown b).toNat = b.toNat - 1 := by
  unfold timerDown
  split
  · simp_all
  · rename_i h
    have : b.toNat ≠ 0 := fun e => h (BitVec.eq_of_toNat_eq (by simpa using e))
    have h1 : (1 : Byte).toNat = 1 := rfl
    have := b.isLt
    rw [BitVec.toNat_sub, h1]; omega

end Sys2Proof.Machine
end

