-- ==== Sys2Proof/Machine/Assembly.lean ====
section
/-! DEFINITION. The assembler syntax of R56: the one spelling of each instruction. Nothing in the machine reads it. -/

namespace Sys2Proof.Machine

/-- One hexadecimal digit, a capital letter from ten up. -/
def hexDigit (k : Fin 16) : String :=
  (["0", "1", "2", "3", "4", "5", "6", "7", "8", "9", "A", "B", "C", "D", "E", "F"][k.val]?).getD ""

/-- `0xNN`. -/
def spellByte (nn : Byte) : String :=
  "0x" ++ hexDigit (nn.extractLsb' 4 4).toFin ++ hexDigit (nn.extractLsb' 0 4).toFin

/-- `0xNNN`. -/
def spellAddr (nnn : Addr12) : String :=
  "0x" ++ hexDigit (nnn.extractLsb' 8 4).toFin ++ hexDigit (nnn.extractLsb' 4 4).toFin ++
    hexDigit (nnn.extractLsb' 0 4).toFin

/-- `V0` to `VF`. -/
def spellReg (x : Reg) : String := "V" ++ hexDigit x

/-- `OP Vx, Vy`. -/
def spellXy (op : String) (x y : Reg) : String := op ++ " " ++ spellReg x ++ ", " ++ spellReg y

/-- `OP Vx, 0xNN`. -/
def spellXnn (op : String) (x : Reg) (nn : Byte) : String := op ++ " " ++ spellReg x ++ ", " ++ spellByte nn

/-- `OP Vx`, or `OP Vx, Vy` when the don't-care y is not 0: SHR and SHL. -/
def spellShift (op : String) (x y : Reg) : String := if y = 0 then op ++ " " ++ spellReg x else spellXy op x y

/-- The spelling of an instruction (R56, D18). The row count n of DRW is one hexadecimal digit: DESIGN CHOICE, log
entry 15. -/
def spelling : Instr → String
  | .nop => "NOP"
  | .cls => "CLS"
  | .ret => "RET"
  | .jp nnn => "JP " ++ spellAddr nnn
  | .call nnn => "CALL " ++ spellAddr nnn
  | .seByte x nn => spellXnn "SE" x nn
  | .sneByte x nn => spellXnn "SNE" x nn
  | .seReg x y => spellXy "SE" x y
  | .ldByte x nn => spellXnn "LD" x nn
  | .addByte x nn => spellXnn "ADD" x nn
  | .ldReg x y => spellXy "LD" x y
  | .or x y => spellXy "OR" x y
  | .and x y => spellXy "AND" x y
  | .xor x y => spellXy "XOR" x y
  | .addReg x y => spellXy "ADD" x y
  | .sub x y => spellXy "SUB" x y
  | .shr x y => spellShift "SHR" x y
  | .subn x y => spellXy "SUBN" y x
  | .shl x y => spellShift "SHL" x y
  | .sneReg x y => spellXy "SNE" x y
  | .ldI nnn => "LD I, " ++ spellAddr nnn
  | .jpV0 nnn => "JP V0, " ++ spellAddr nnn
  | .rnd x nn => spellXnn "RND" x nn
  | .drw x y n => spellXy "DRW" x y ++ ", " ++ hexDigit n
  | .skp x => "SKP " ++ spellReg x
  | .sknp x => "SKNP " ++ spellReg x
  | .ldVxDt x => "LD " ++ spellReg x ++ ", DT"
  | .ldVxK x => "LD " ++ spellReg x ++ ", K"
  | .ldDtVx x => "LD DT, " ++ spellReg x
  | .ldStVx x => "LD ST, " ++ spellReg x
  | .addIVx x => "ADD I, " ++ spellReg x
  | .ldFVx x => "LD F, " ++ spellReg x
  | .ldBVx x => "LD B, " ++ spellReg x
  | .ldMemVx x => "LD [I], " ++ spellReg x
  | .ldVxMem x => "LD " ++ spellReg x ++ ", [I]"

end Sys2Proof.Machine
end

