-- ==== Sys2Proof/Tests/Slice0.lean ====
section
/-! SUPPORT. Tests. Expected results come from the patterns of R52, from the vectors V01 to VFF and H1 to H7 of
spec/95_test_vectors.md, or by hand from the rule named. -/

open Sys2Proof Sys2Proof.Machine

namespace Sys2Proof.Machine.Tests

/-! ### Helpers -/

/-- A reading of the next state, if there is one. -/
def after {α : Type} (o : Host.Outcome State Fault Refusal) (f : State → α) : Option α :=
  match o with
  | .next t => some (f t)
  | _ => none

/-- A reading of what a host operation leaves and answers, if it completes. -/
def answer {α : Type} (o : Host.Outcome (State × Reply) Fault Refusal) (f : State → Reply → α) : Option α :=
  match o with
  | .next (t, r) => some (f t r)
  | _ => none

/-- One STEP with the word `w` at PC. -/
def run1 (s : State) (w : Nat) : Host.Outcome State Fault Refusal := step (s.withFetchWord 16 w)

/-- The reset state with some registers written. -/
def withV (l : List (Reg × Byte)) : State := l.foldl (fun s p => s.setReg p.1 p.2) State.reset

/-- The default parameters under OOR_POLICY = FAULT. -/
def strict : Params := { defaultParams with oorPolicy := .fault }

/-- The fault report and PC. -/
def report (t : State) : RunState × Byte × Word × Word × Word :=
  (t.runState, t.faultCode, t.faultWord, t.faultPc, t.pc)

/-- The report of fault code k raised by word w at 0x200. -/
def faultAtStart (k : Byte) (w : Word) : Option (RunState × Byte × Word × Word × Word) :=
  some (.faulted, k, w, 0x200, 0x200)

/-- A state with I set. -/
def atI (s : State) (a : Word) : State := s.setIndex a

/-- The columns of row py whose pixels are on. -/
def pixelsOn (t : State) (py : Fin 32) : List (Fin 64) := (List.finRange 64).filter (fun px => t.fb.pixel px py)

/-! ### Well-formedness: each check refuses an ill-formed term -/

theorem test_row_wf_accepts : OpRow.wf ⟨0x8004, 0xF00F⟩ := by decide
theorem test_row_wf_refuses_value_outside_mask : ¬ OpRow.wf ⟨0x8014, 0xF00F⟩ := by decide
theorem test_row_covers_refuses_neighbour : OpRow.covers ⟨0x8004, 0xF00F⟩ 0x8AB4 ∧ ¬ OpRow.covers ⟨0x8004, 0xF00F⟩ 0x8AB5 := by decide
theorem test_rows_apart_refuses_overlap :
    OpRow.apart ⟨0x8004, 0xF00F⟩ ⟨0x8005, 0xF00F⟩ ∧ ¬ OpRow.apart ⟨0x8004, 0xF00F⟩ ⟨0x8000, 0xF000⟩ := by decide
/-- R117: 3584 bytes fit and 3585 do not. -/
theorem test_image_fits_boundary : imageFits (List.replicate 3584 0) ∧ ¬ imageFits (List.replicate 3585 0) := by
  unfold imageFits; rw [List.length_replicate, List.length_replicate]; decide
theorem test_memory_wf_refuses_reset_value_and_disorder :
    Memory.wf (resetByte defaultFont) [(0x000, 0xF1), (0x200, 1)] ∧ ¬ Memory.wf (resetByte defaultFont) [(0x000, 0xF0)] ∧
    ¬ Memory.wf (resetByte defaultFont) [(0x201, 1), (0x200, 1)] ∧ ¬ Memory.wf (resetByte defaultFont) [(0x1000, 1)] := by
  decide

/-! ### Decoding: one word for every constructor, from the patterns of R52 -/

theorem test_decode_family_0 : decodeTableWord 16 0x0000 = some .nop ∧ decodeTableWord 16 0x00E0 = some .cls ∧
    decodeTableWord 16 0x00EE = some .ret := by decide
theorem test_decode_families_1_2 : decodeTableWord 16 0x1ABC = some (.jp 0xABC) ∧
    decodeTableWord 16 0x2ABC = some (.call 0xABC) := by decide
theorem test_decode_skips : decodeTableWord 16 0x3ABC = some (.seByte 0xA 0xBC) ∧
    decodeTableWord 16 0x4ABC = some (.sneByte 0xA 0xBC) ∧ decodeTableWord 16 0x5AB0 = some (.seReg 0xA 0xB) ∧
    decodeTableWord 16 0x9AB0 = some (.sneReg 0xA 0xB) := by decide
theorem test_decode_immediates : decodeTableWord 16 0x6ABC = some (.ldByte 0xA 0xBC) ∧
    decodeTableWord 16 0x7ABC = some (.addByte 0xA 0xBC) := by decide
theorem test_decode_alu_moves : decodeTableWord 16 0x8AB0 = some (.ldReg 0xA 0xB) ∧
    decodeTableWord 16 0x8AB1 = some (.or 0xA 0xB) ∧ decodeTableWord 16 0x8AB2 = some (.and 0xA 0xB) ∧
    decodeTableWord 16 0x8AB3 = some (.xor 0xA 0xB) := by decide
theorem test_decode_alu_flags : decodeTableWord 16 0x8AB4 = some (.addReg 0xA 0xB) ∧
    decodeTableWord 16 0x8AB5 = some (.sub 0xA 0xB) ∧ decodeTableWord 16 0x8AB6 = some (.shr 0xA 0xB) ∧
    decodeTableWord 16 0x8AB7 = some (.subn 0xA 0xB) ∧ decodeTableWord 16 0x8ABE = some (.shl 0xA 0xB) := by decide
theorem test_decode_families_A_B_C : decodeTableWord 16 0xAABC = some (.ldI 0xABC) ∧
    decodeTableWord 16 0xBABC = some (.jpV0 0xABC) ∧ decodeTableWord 16 0xCABD = some (.rnd 0xA 0xBD) := by decide
theorem test_decode_families_D_E : decodeTableWord 16 0xDAB7 = some (.drw 0xA 0xB 7) ∧
    decodeTableWord 16 0xEA9E = some (.skp 0xA) ∧ decodeTableWord 16 0xEAA1 = some (.sknp 0xA) := by decide
theorem test_decode_family_F_timers_keys : decodeTableWord 16 0xFA07 = some (.ldVxDt 0xA) ∧
    decodeTableWord 16 0xFA0A = some (.ldVxK 0xA) ∧ decodeTableWord 16 0xFA15 = some (.ldDtVx 0xA) ∧
    decodeTableWord 16 0xFA18 = some (.ldStVx 0xA) := by decide
theorem test_decode_family_F_memory : decodeTableWord 16 0xFA1E = some (.addIVx 0xA) ∧
    decodeTableWord 16 0xFA29 = some (.ldFVx 0xA) ∧ decodeTableWord 16 0xFA33 = some (.ldBVx 0xA) ∧
    decodeTableWord 16 0xFA55 = some (.ldMemVx 0xA) ∧ decodeTableWord 16 0xFA65 = some (.ldVxMem 0xA) := by decide
/-- R53: the words the vectors V05 to V07, V37, V3A, V8Q, V8R and VE7 name, and one more of family F. -/
theorem test_decode_refuses_unimplemented :
    [0x0123, 0x00E1, 0x00FF, 0x5121, 0x912F, 0x8018, 0x801F, 0xE59F, 0xF0FF].map (decodeTableWord 16) =
      List.replicate 9 none := by decide
/-- R34: the first byte is the high one. -/
theorem test_decode_bytes_big_endian : decode [0x12, 0x34, 0x56] = .ok (.jp 0x234, [0x56]) := rfl
/-- R55: SHR and SHL keep the don't-care field. -/
theorem test_encode_keeps_dont_care : encode (.shr 1 2) = 0x8126 ∧ encode (.shl 1 2) = 0x812E := by decide
theorem test_sample_words : Obligations.SampleWordsDecode := by
  refine ⟨rfl, rfl, rfl, rfl, rfl, rfl, rfl, rfl, rfl, rfl, rfl, rfl, rfl, rfl, rfl, rfl⟩

/-- R56, and the listings of P2 and P4: each spelling beside its word. -/
theorem test_spelling : spelling (.ldByte 0xA 0x9D) = "LD VA, 0x9D" ∧ spelling (.call 0x20A) = "CALL 0x20A" ∧
    spelling (.drw 2 3 2) = "DRW V2, V3, 2" ∧ spelling (.subn 0 1) = "SUBN V1, V0" ∧ spelling (.shr 0 0) = "SHR V0" ∧
    spelling (.shl 0 3) = "SHL V0, V3" ∧ spelling (.ldVxMem 2) = "LD V2, [I]" := by decide

/-! ### Family 0 -/

/-- V01. -/
theorem test_nop : run1 State.reset 0x0000 = .next ((State.reset.withFetchWord 16 0x0000).setPc 0x202) := rfl
/-- V02. -/
theorem test_cls : after (run1 ((withV [(vf, 1)]).setFb ((blankFb.toggle 3 4).toggle 63 31)) 0x00E0)
    (fun t => (t.fb, t.reg vf, t.pc)) = some (blankFb, 1, 0x202) := by decide
/-- V03: the popped slot is kept. -/
theorem test_ret : after (run1 { State.reset with sp := 2, stack := (State.reset.stack.set 0 0x206).set 1 0x30A } 0x00EE)
    (fun t => (t.sp, t.pc, t.stack.get 1)) = some (1, 0x30A, 0x30A) := by decide
/-- V04. -/
theorem test_ret_underflow : after (run1 State.reset 0x00EE) report = faultAtStart 3 0x00EE ∧
    after (run1 State.reset 0x00EE) (fun t => t.sp) = some 0 := by decide
/-- V05. -/
theorem test_unimplemented : after (run1 State.reset 0x0123) report = faultAtStart 1 0x0123 := by decide

/-! ### Families 1 and 2 -/

/-- V11, V12. -/
theorem test_jp : after (run1 State.reset 0x1234) (fun t => t.pc) = some 0x234 ∧
    after (run1 State.reset 0x1201) (fun t => t.pc) = some 0x201 := by decide
/-- V15 and V17: the return address 0x1000 is not wrapped. -/
theorem test_call :
    after (run1 { State.reset with sp := 15, pc := 0x300 } 0x2400) (fun t => (t.stack.get 15, t.sp, t.pc)) =
      some (0x302, 16, 0x400) ∧
    after (run1 { State.reset with pc := 0xFFE } 0x2400) (fun t => (t.stack.get 0, t.sp, t.pc)) =
      some (0x1000, 1, 0x400) := by decide
/-- V16. -/
theorem test_call_overflow : after (run1 { State.reset with sp := 16, pc := 0x300 } 0x2400)
    (fun t => (report t, t.sp, t.stack)) =
      some ((.faulted, 2, 0x2400, 0x300, 0x300), 16, State.reset.stack) := by decide

/-! ### Skips -/

/-- V31, V32. -/
theorem test_se_byte : after (run1 (withV [(3, 0x42)]) 0x3342) (fun t => t.pc) = some 0x204 ∧
    after (run1 (withV [(3, 0x41)]) 0x3342) (fun t => t.pc) = some 0x202 := by decide
/-- V33, V34. -/
theorem test_sne_byte : after (run1 (withV [(3, 0x41)]) 0x4342) (fun t => t.pc) = some 0x204 ∧
    after (run1 (withV [(3, 0x42)]) 0x4342) (fun t => t.pc) = some 0x202 := by decide
/-- V35, V36. -/
theorem test_se_reg : after (run1 (withV [(1, 7), (2, 7)]) 0x5120) (fun t => t.pc) = some 0x204 ∧
    after (run1 (withV [(1, 7), (2, 8)]) 0x5120) (fun t => t.pc) = some 0x202 := by decide
/-- V38, V39. -/
theorem test_sne_reg : after (run1 (withV [(1, 7), (2, 8)]) 0x9120) (fun t => t.pc) = some 0x204 ∧
    after (run1 (withV [(1, 7), (2, 8)]) 0x9110) (fun t => t.pc) = some 0x202 := by decide
/-- V3C: the skipped word 0xFFFF is not decoded. -/
theorem test_skip_does_not_decode :
    after (run1 ((State.reset.setCell 0x202 0xFF).setCell 0x203 0xFF) 0x3000) (fun t => (t.pc, t.faultCode)) =
      some (0x204, 0) := by decide

/-! ### Immediates -/

/-- V61, V62. -/
theorem test_ld_byte : after (run1 State.reset 0x600A) (fun t => t.reg 0) = some 0x0A ∧
    after (run1 State.reset 0x6FFF) (fun t => t.reg vf) = some 0xFF := by decide
/-- V63: no carry flag. -/
theorem test_add_byte_no_flag : after (run1 (withV [(2, 0xFE)]) 0x7203) (fun t => (t.reg 2, t.reg vf)) = some (1, 0) := by
  decide
/-- V64. -/
theorem test_add_byte_to_vf : after (run1 (withV [(vf, 1)]) 0x7FFF) (fun t => t.reg vf) = some 0 := by decide

/-! ### The ALU -/

/-- V81. -/
theorem test_ld_reg : after (run1 (withV [(1, 0x33)]) 0x8010) (fun t => (t.reg 0, t.reg 1)) = some (0x33, 0x33) := by decide
/-- V82, V8P. -/
theorem test_or : after (run1 (withV [(0, 0xF0), (1, 0x0F), (vf, 1)]) 0x8011) (fun t => (t.reg 0, t.reg vf)) =
      some (0xFF, 1) ∧
    after (run1 (withV [(vf, 2), (1, 1)]) 0x8F11) (fun t => t.reg vf) = some 3 := by decide
/-- V83. -/
theorem test_and : after (run1 (withV [(0, 0xF0), (1, 0x3C)]) 0x8012) (fun t => t.reg 0) = some 0x30 := by decide
/-- V84, V85. -/
theorem test_xor : after (run1 (withV [(0, 0xF0), (1, 0x3C)]) 0x8013) (fun t => t.reg 0) = some 0xCC ∧
    after (run1 (withV [(0, 0x5A)]) 0x8003) (fun t => t.reg 0) = some 0 := by decide
/-- V86, V87. -/
theorem test_add_reg : after (run1 (withV [(0, 0xFF), (1, 0xFF)]) 0x8014) (fun t => (t.reg 0, t.reg vf)) =
      some (0xFE, 1) ∧
    after (run1 (withV [(0, 0x80)]) 0x8004) (fun t => (t.reg 0, t.reg vf)) = some (0, 1) := by decide
/-- V8I, V8K: the flag is written last. -/
theorem test_add_reg_to_vf : after (run1 (withV [(1, 1), (vf, 0xFF)]) 0x8F14) (fun t => t.reg vf) = some 1 ∧
    after (run1 (withV [(vf, 0x80)]) 0x8FF4) (fun t => t.reg vf) = some 1 := by decide
/-- V89, V8A. -/
theorem test_sub : after (run1 (withV [(0, 5), (1, 7)]) 0x8015) (fun t => (t.reg 0, t.reg vf)) = some (0xFE, 0) ∧
    after (run1 (withV [(0, 0x42), (1, 0x42)]) 0x8015) (fun t => (t.reg 0, t.reg vf)) = some (0, 1) := by decide
/-- V8J. -/
theorem test_sub_to_vf : after (run1 (withV [(1, 7), (vf, 5)]) 0x8F15) (fun t => t.reg vf) = some 0 := by decide
/-- V8D: y is not used. -/
theorem test_shr : after (run1 (withV [(0, 5), (3, 0xFF)]) 0x8036) (fun t => (t.reg 0, t.reg vf, t.reg 3)) =
    some (2, 1, 0xFF) := by decide
/-- V8L, both orders. -/
theorem test_shr_vf_order : after (run1 (withV [(vf, 6)]) 0x8F06) (fun t => t.reg vf) = some 3 ∧
    after (run1 { withV [(vf, 6)] with params := { defaultParams with shiftVfOrder := .resultThenFlag } } 0x8F06)
      (fun t => t.reg vf) = some 0 := by decide
/-- V8G, V8H: the destination is Vy. -/
theorem test_subn : after (run1 (withV [(0, 3), (1, 0x0A)]) 0x8017) (fun t => (t.reg 1, t.reg vf, t.reg 0)) =
      some (7, 1, 3) ∧
    after (run1 (withV [(0, 0x0A), (1, 3)]) 0x8017) (fun t => (t.reg 1, t.reg vf, t.reg 0)) = some (0xF9, 0, 0x0A) := by
  decide
/-- V8N, V8O. -/
theorem test_subn_vf : after (run1 (withV [(0, 3), (vf, 0x0A)]) 0x80F7) (fun t => (t.reg vf, t.reg 0)) = some (1, 3) ∧
    after (run1 (withV [(1, 5), (vf, 2)]) 0x8F17) (fun t => (t.reg 1, t.reg vf)) = some (3, 1) := by decide
/-- V8E, V8F. -/
theorem test_shl : after (run1 (withV [(0, 0x7F)]) 0x800E) (fun t => (t.reg 0, t.reg vf)) = some (0xFE, 0) ∧
    after (run1 (withV [(0, 0xFF)]) 0x800E) (fun t => (t.reg 0, t.reg vf)) = some (0xFE, 1) := by decide
/-- V8M, both orders. -/
theorem test_shl_vf_order : after (run1 (withV [(vf, 0x81)]) 0x8F0E) (fun t => t.reg vf) = some 2 ∧
    after (run1 { withV [(vf, 0x81)] with params := { defaultParams with shiftVfOrder := .resultThenFlag } } 0x8F0E)
      (fun t => t.reg vf) = some 1 := by decide

/-! ### Families A, B and C -/

/-- VA1, VA2. -/
theorem test_ld_i : after (run1 State.reset 0xA300) (fun t => t.index) = some 0x300 ∧
    after (run1 (atI State.reset 0xFFFF) 0xAFFF) (fun t => t.index) = some 0x0FFF := by decide
/-- VB2, VB4. -/
theorem test_jp_v0 : after (run1 (withV [(0, 0xFF)]) 0xBFFF) (fun t => t.pc) = some 0x10FE ∧
    after (run1 (withV [(0, 0x10), (5, 0x99)]) 0xB520) (fun t => t.pc) = some 0x530 := by decide
/-- VC2: any draw under mask 00; one draw is used (R83). -/
theorem test_rnd_mask_zero : ∃ t, run1 (withV [(3, 0x55)]) 0xC300 = .next t ∧ t.reg 3 = 0 ∧ t.draws = 1 ∧ t.pc = 0x202 :=
  ⟨_, rfl, BitVec.and_zero, rfl, rfl⟩

/-! ### Family D -/

/-- VD1, VD2: glyph 0 (the font bytes are log entry 2's). -/
theorem test_drw_glyph : after (run1 State.reset 0xD015) (fun t => ([0, 1, 2, 3, 4, 5].map (pixelsOn t), t.reg vf)) =
      some ([[0, 1, 2, 3], [0, 3], [0, 3], [0, 3], [0, 1, 2, 3], []], 0) := by decide
/-- VDB and VD8: column wrap; a set bit over a lit pixel collides. -/
theorem test_drw_wrap_and_collision :
    after (run1 ((atI (withV [(0, 0x3F)]) 0x300).setCell 0x300 0x01) 0xD011) (fun t => (pixelsOn t 0, t.reg vf)) =
      some ([6], 0) ∧
    after (run1 ((atI (State.reset.setFb (blankFb.toggle 1 0)) 0x300).setCell 0x300 0xC0) 0xD011)
      (fun t => (pixelsOn t 0, t.reg vf)) = some ([0], 1) := by decide

/-! ### Keys -/

/-- VE1, VE2. -/
theorem test_skp : after (run1 ((withV [(5, 0x0A)]).setKey 0xA true) 0xE59E) (fun t => t.pc) = some 0x204 ∧
    after (run1 (withV [(5, 0x0A)]) 0xE59E) (fun t => t.pc) = some 0x202 := by decide
/-- VE5, both policies. -/
theorem test_skp_key_index : after (run1 (withV [(5, 0x10)]) 0xE59E) report = faultAtStart 4 0xE59E ∧
    after (run1 ({ withV [(5, 0x10)] with params := { defaultParams with keyIndexPolicy := .maskLowNibble } }.setKey 0 true)
      0xE59E) (fun t => t.pc) = some 0x204 := by decide
/-- VE3, VE4. -/
theorem test_sknp : after (run1 (withV [(5, 0x0A)]) 0xE5A1) (fun t => t.pc) = some 0x204 ∧
    after (run1 ((withV [(5, 0x0A)]).setKey 0xA true) 0xE5A1) (fun t => t.pc) = some 0x202 := by decide
/-- VE6. -/
theorem test_sknp_key_index : after (run1 (withV [(5, 0xFF)]) 0xE5A1) report = faultAtStart 4 0xE5A1 := by decide
/-- VE9. -/
theorem test_ld_vx_k : after (run1 ((State.reset.setKey 7 true).setKey 4 true) 0xF30A) (fun t => (t.reg 3, t.pc)) =
    some (4, 0x202) := by decide
/-- VE8, VEC: waiting leaves PC, at address 0 too. -/
theorem test_ld_vx_k_waits : after (run1 (withV [(3, 9)]) 0xF30A) (fun t => (t.reg 3, t.pc)) = some (9, 0x200) ∧
    after (run1 { State.reset with pc := 0 } 0xF00A) (fun t => t.pc) = some 0 := by decide

/-! ### Timers -/

/-- VT1. -/
theorem test_ld_vx_dt : after (run1 (State.reset.setDt 0x3C) 0xF207) (fun t => (t.reg 2, t.dt)) = some (0x3C, 0x3C) := by
  decide
/-- VT2. -/
theorem test_ld_dt_vx : after (run1 (withV [(2, 0x3C)]) 0xF215) (fun t => (t.dt, t.st)) = some (0x3C, 0) := by decide
/-- VT3. -/
theorem test_ld_st_vx : after (run1 (withV [(2, 5)]) 0xF218) (fun t => (t.st, t.dt)) = some (5, 0) := by decide
/-- VT5. -/
theorem test_tick_sound_stop : answer (hostOp .tick ((State.reset.setDt 1).setSt 1)) (fun t r => (t.dt, t.st, r)) =
    some (0, 0, .soundStop true) := by decide
/-- VT4, VT7. -/
theorem test_tick_at_zero_and_faulted :
    answer (hostOp .tick State.reset) (fun t r => (t.dt, t.st, r)) = some (0, 0, .soundStop false) ∧
    answer (hostOp .tick ((State.reset.setDt 2).takeFault .stackUnderflow 0x00EE)) (fun t _ => t.dt) = some 1 := by decide

/-! ### I and memory -/

/-- VF2, VF3. -/
theorem test_add_i : after (run1 (atI (withV [(1, 1)]) 0xFFFF) 0xF11E) (fun t => (t.index, t.reg vf)) = some (0, 0) ∧
    after (run1 (atI (withV [(1, 1)]) 0x0FFF) 0xF11E) (fun t => t.index) = some 0x1000 := by decide
/-- VF6, both masks. -/
theorem test_ld_f : after (run1 (withV [(4, 0xFF)]) 0xF429) (fun t => t.index) = some 0x04FB ∧
    after (run1 { withV [(4, 0xFF)] with params := { defaultParams with fontDigitMask := true } } 0xF429)
      (fun t => t.index) = some 0x004B := by decide
/-- VF9: the digits wrap to the low addresses under MASK. -/
theorem test_ld_b_wraps : after (run1 (atI (withV [(0, 0xFF)]) 0x0FFF) 0xF033) (fun t => [0xFFF, 0x000, 0x001].map t.cell) =
    some [2, 5, 5] := by decide
/-- P2's subroutine: 0x9D is 157. -/
theorem test_ld_b : after (run1 (atI (withV [(0, 0x9D)]) 0x300) 0xF033) (fun t => ([0x300, 0x301, 0x302].map t.cell, t.index)) =
    some ([1, 5, 7], 0x300) := by decide
/-- VFA: V2 is not stored. -/
theorem test_ld_mem : after (run1 (atI (withV [(0, 0xFF), (1, 0x81), (2, 0x77)]) 0x300) 0xF155)
    (fun t => ([0x300, 0x301, 0x302].map t.cell, t.index)) = some ([0xFF, 0x81, 0], 0x300) := by decide
/-- VFE, VFF. -/
theorem test_ld_mem_address_range :
    after (run1 { atI (withV [(0, 9)]) 0xFFE with params := strict } 0xF255) (fun t => (report t, t.cell 0xFFE)) =
      some ((.faulted, 5, 0xF255, 0x200, 0x200), 0) ∧
    after (run1 { atI (withV [(0, 9), (1, 8)]) 0xFFE with params := strict } 0xF155)
      (fun t => (t.cell 0xFFE, t.cell 0xFFF, t.faultCode)) = some (9, 8, 0) := by decide
/-- VFC. -/
theorem test_ld_vx_mem :
    after (run1 (((atI (withV [(3, 0x33)]) 0x300).setCell 0x300 1 |>.setCell 0x301 5).setCell 0x302 7) 0xF265)
      (fun t => (t.reg 0, t.reg 1, t.reg 2, t.reg 3, t.index)) = some (1, 5, 7, 0x33, 0x300) := by decide
/-- VFD. -/
theorem test_ld_vx_mem_vf : after (run1 ((atI State.reset 0x300).setCell 0x30F 0xAA) 0xFF65) (fun t => t.reg vf) =
    some 0xAA := by decide

/-! ### Host operations -/

/-- H4: a LOAD of no bytes sets LOADED. -/
theorem test_load_empty : hostOp (.load []) State.reset = .next ({ State.reset with loaded := true }, .loadOk) := rfl
/-- R117 and P1: bytes go to 0x200 and up. -/
theorem test_load_places_bytes : answer (hostOp (.load [0x60, 0x0A]) State.reset) (fun t r => (t.cell 0x200, t.cell 0x201, r)) =
    some (0x60, 0x0A, .loadOk) := by decide
/-- H2. -/
theorem test_load_overflow (s : State) (h : s.loaded = false) :
    hostOp (.load (List.replicate 3585 0)) s = .next (s, .loadOverflow) := by
  have hf : ¬ imageFits (List.replicate 3585 0) := test_image_fits_boundary.2
  rw [hostOp, if_neg (by rw [h]; decide), if_neg hf]
/-- H7: after V04. (H5 is `test_witness_faulted`.) -/
theorem test_read_fault : answer (hostOp .readFault { State.reset.takeFault .stackUnderflow 0x00EE with loaded := true })
    (fun _ r => r) = some (.fault .faulted 3 0x00EE 0x200) := by decide
/-- H6. -/
theorem test_set_key : answer (hostOp (.setKey 3 true) State.reset) (fun t _ => (t.key 3, t.key 2)) = some (true, false) ∧
    answer (hostOp (.setKey 3 false) (State.reset.setKey 3 true)) (fun t _ => t) = some State.reset := by decide
/-- R118: STEP before LOAD. -/
theorem test_step_before_load : step State.reset = .refused .stepBeforeLoad := rfl
/-- H3, R25: digit 1 of the font at 5, and blank memory above it. -/
theorem test_reset_memory : [5, 6, 7, 8, 9, 80, 0x200].map State.reset.cell = [0x20, 0x60, 0x20, 0x20, 0x70, 0, 0] := by
  decide

/-! ### Witnesses: a state and operands that meet the hypotheses of each obligation -/

/-- `EncodeOfDecodeIsWord`, `DecodeAcceptsExactlyTheTable`. -/
theorem test_witness_decodes : decodeWord 0x8126 = .ok (.shr 1 2) := rfl
/-- `StreamDecodeTakesTwoBytes`, both clauses. -/
theorem test_witness_stream : decodeWord ((0x12 : Byte) ++ (0x34 : Byte)) = .ok (.jp 0x234) ∧
    ([0x12] : List Byte).length < 2 ∧ ([] : List Byte).length < 2 := ⟨rfl, by decide, by decide⟩
/-- `StepRunsDecodedInstruction`, `LoadedStepAlwaysAnswers`. -/
theorem test_witness_step_runs : (State.reset.withFetchWord 16 0x1234).loaded = true ∧
    (State.reset.withFetchWord 16 0x1234).runState = .running ∧
    (State.reset.withFetchWord 16 0x1234).fetchWord = .ok 0x1234 ∧ decodeWord 0x1234 = .ok (.jp 0x234) :=
  ⟨rfl, rfl, rfl, rfl⟩
/-- `FetchReadsBigEndianWord`, both clauses where they meet: 0xFFE is the last address under FAULT. -/
theorem test_witness_fetch : accessOk .mask 0xFFFF 2 ∧ accessOk .fault 0xFFE 2 ∧ ¬ accessOk .fault 0xFFF 2 ∧
    0x1000 ≤ 0xFFF + 1 ∧ ¬ 0x1000 ≤ 0xFFE + 1 := by decide
/-- A loaded machine under OOR_POLICY = FAULT with PC at 0xFFF. -/
def endOfMemory : State := { State.resetWith strict 0 with loaded := true, pc := 0xFFF }
/-- `FetchFaultIsTaken`. -/
theorem test_witness_fetch_fault : endOfMemory.loaded = true ∧ endOfMemory.runState = .running ∧
    endOfMemory.params.oorPolicy = .fault ∧ 0x1000 ≤ endOfMemory.pc.toNat + 1 := by decide
/-- `UnimplementedWordFaults`. -/
theorem test_witness_unimplemented : (State.reset.withFetchWord 16 0x0123).loaded = true ∧
    (State.reset.withFetchWord 16 0x0123).runState = .running ∧
    (State.reset.withFetchWord 16 0x0123).fetchWord = .ok 0x0123 ∧
    decodeWord 0x0123 = .error (.unimplemented 0x0123) := ⟨rfl, rfl, rfl, rfl⟩
/-- A loaded machine that took STACK_UNDERFLOW. -/
def underflowed : State := { State.reset.takeFault .stackUnderflow 0x00EE with loaded := true }
/-- `FaultedStepHasNoEffect`, `StepKeepsInvariant` at a FAULTED state. -/
theorem test_witness_faulted : underflowed.Inv ∧ underflowed.faultReportConsistent ∧ underflowed.runState = .faulted ∧
    step underflowed = .next underflowed := ⟨by decide, by decide, rfl, rfl⟩
/-- `HostDutiesHaveNoMove`, `LoadCopiesImageOrRefusesWhole`. -/
theorem test_witness_loaded : State.reset.loaded = false ∧ underflowed.loaded = true := by decide
/-- `LoadCopiesImageOrRefusesWhole`: the lengths where its clauses meet. -/
theorem test_witness_load_lengths : (List.replicate 3584 (0 : Byte)).length ≤ 3584 ∧
    3584 < (List.replicate 3585 (0 : Byte)).length := by
  rw [List.length_replicate, List.length_replicate]; decide
/-- `FaultingStepCommitsNothing`: the instruction's own fault, and a fetch fault. -/
theorem test_witness_faulting_step :
    after (run1 State.reset 0x00EE) (fun t => t.runState) = some .faulted ∧
    (State.reset.withFetchWord 16 0x00EE).fetchWord = .ok 0x00EE ∧
    after (step endOfMemory) (fun t => t.runState) = some .faulted ∧
    endOfMemory.fetchWord = .error .addressRange := ⟨by decide, rfl, by decide, rfl⟩
/-- `WriteIsSeenByReadAndFetch`: address 0x1200 reaches 0x200 under MASK, where a read and the fetches at 0x200 and at
0x1FF then find the byte. -/
theorem test_witness_write_is_seen : ∃ t, State.reset.memWrite 0x1200 0x12 = .ok t ∧
    (0x200 % 0x1000 = 0x1200 % 0x1000 ∧ accessOk t.params.oorPolicy 0x200 1 ∧ t.memRead 0x200 = .ok 0x12) ∧
    ((0x200 : Word).toNat % 0x1000 = 0x1200 % 0x1000 ∧ { t with pc := 0x200 }.fetchWord = .ok 0x1200) ∧
    (((0x1FF : Word).toNat + 1) % 0x1000 = 0x1200 % 0x1000 ∧ { t with pc := 0x1FF }.fetchWord = .ok 0x0012) :=
  ⟨_, rfl, ⟨by decide, by decide, rfl⟩, ⟨by decide, rfl⟩, by decide, rfl⟩
/-- `OnlyNamedInstructionsWriteEachField`: its clauses on the general registers, PC and the fault registers. -/
theorem test_witness_registers_pc_and_fault_change :
    (∃ t, exec (.ldVxMem 2) State.reset = .next t ∧ t.reg 0 ≠ State.reset.reg 0) ∧
    (∃ t, exec (.seReg 1 2) State.reset = .next t ∧ t.pc ≠ State.reset.pc + 2) ∧
    (∃ t, exec (.ldVxK 3) State.reset = .next t ∧ t.pc ≠ State.reset.pc + 2) ∧
    ∃ t, exec .ret State.reset = .next t ∧ t.pc ≠ State.reset.pc + 2 ∧ t.runState ≠ State.reset.runState ∧
      t.faultKind ≠ State.reset.faultKind ∧ t.faultWord ≠ State.reset.faultWord ∧ t.faultPc ≠ State.reset.faultPc := by
  refine ⟨⟨_, rfl, ?_⟩, ⟨_, rfl, ?_⟩, ⟨_, rfl, ?_⟩, ⟨_, rfl, ?_⟩⟩ <;> decide
/-- `OnlyNamedInstructionsWriteEachField`: for each other field a state and an instruction that changes it. -/
theorem test_witness_fields_change :
    (∃ t, exec (.call 0x400) State.reset = .next t ∧ t.stack ≠ State.reset.stack ∧ t.sp ≠ State.reset.sp) ∧
    (∃ t, exec .ret { State.reset with sp := 1 } = .next t ∧ t.sp ≠ 1) ∧
    (∃ t, exec (.ldI 0x300) State.reset = .next t ∧ t.index ≠ State.reset.index) ∧
    (∃ t, exec (.ldDtVx 0) (withV [(0, 5)]) = .next t ∧ t.dt ≠ 0) ∧
    (∃ t, exec (.ldStVx 0) (withV [(0, 5)]) = .next t ∧ t.st ≠ 0) ∧
    (∃ t, exec (.drw 0 1 5) State.reset = .next t ∧ t.fb ≠ State.reset.fb) ∧
    (∃ t, exec (.ldBVx 0) (atI (withV [(0, 0xFF)]) 0x300) = .next t ∧ t.mem ≠ State.reset.mem) ∧
    ∃ t, exec (.rnd 0 0) State.reset = .next t ∧ t.draws ≠ State.reset.draws := by
  refine ⟨⟨_, rfl, ?_, ?_⟩, ⟨_, rfl, ?_⟩, ⟨_, rfl, ?_⟩, ⟨_, rfl, ?_⟩, ⟨_, rfl, ?_⟩, ⟨_, rfl, ?_⟩, ⟨_, rfl, ?_⟩, ⟨_, rfl, ?_⟩⟩
    <;> decide
/-- `OnlyFlagWritersOrDestinationChangeVf`. -/
theorem test_witness_vf_changes : ∃ t, exec (.addReg 0 1) (withV [(0, 0xFF), (1, 1)]) = .next t ∧
    t.reg vf ≠ (withV [(0, 0xFF), (1, 1)]).reg vf := ⟨_, rfl, by decide⟩
/-- `ParametersNeverChange`, `HostOperationsKeepInvariant`. -/
theorem test_witness_host_op : State.reset.Inv ∧ ∃ t r, hostOp .tick State.reset = .next (t, r) := ⟨by decide, _, _, rfl⟩
/-- `StepKeepsInvariant` at a RUNNING state. -/
theorem test_witness_step_keeps_inv : (State.reset.withFetchWord 16 0xF155).Inv ∧
    ∃ t, step (State.reset.withFetchWord 16 0xF155) = .next t := ⟨by decide, _, rfl⟩
/-- `ReachableStatesKeepInvariant`: a schedule that loads RET, steps it, and reads the fault. -/
theorem test_witness_reachable : ∃ s : State, s.reachable defaultParams ∧ s.runState = .faulted :=
  ⟨_, ⟨[.load [0x00, 0xEE], .step, .readFault], rfl⟩, by decide⟩
/-- `RetPopsReturnAddress`: SP = 1, 16 and 0. -/
theorem test_witness_ret : (0 < ({ State.reset with sp := 1 } : State).sp.val) ∧
    (0 < ({ State.reset with sp := 16 } : State).sp.val) ∧ State.reset.sp.val = 0 := by decide
/-- `CallPushesReturnAddress`: SP = 0, 15 and 16. -/
theorem test_witness_call : State.reset.sp.val < 16 ∧ (({ State.reset with sp := 15 } : State).sp.val < 16) ∧
    ({ State.reset with sp := 16 } : State).sp.val = 16 := by decide
/-- `RetUndoesCall`. -/
theorem test_witness_ret_undoes_call : ({ State.reset with sp := 15 } : State).sp.val < 16 ∧
    ∃ t, exec (.call 0xFFF) { State.reset with sp := 15 } = .next t := ⟨by decide, _, rfl⟩
/-- `KeySkipsTestTheNamedKey`: Vx = 0xF names key 0xF; 0x10 faults, or names key 0 under MASK_LOW_NIBBLE. -/
theorem test_witness_key_skips : (15 : Fin 16).val = ((withV [(5, 0xF)]).reg 5).toNat ∧
    15 < ((withV [(5, 0x10)]).reg 5).toNat ∧ (withV [(5, 0x10)]).params.keyIndexPolicy = .fault ∧
    ({ withV [(5, 0x10)] with params := { defaultParams with keyIndexPolicy := .maskLowNibble } } : State).params.keyIndexPolicy
      = .maskLowNibble ∧ (0 : Fin 16).val = ((withV [(5, 0x10)]).reg 5).toNat % 16 := by decide
/-- `KeyWaitTakesLowestKeyOrStays`, both clauses. -/
theorem test_witness_key_wait : ((State.reset.setKey 7 true).setKey 4 true).key 4 = true ∧
    (∀ j, j < 4 → ((State.reset.setKey 7 true).setKey 4 true).key j = false) ∧ ∀ k, State.reset.key k = false := by decide
/-- `DrwTogglesSpritePixels`, `BcdStoresThreeDigits`, `BlockStoreWritesV0ToVx`, `BlockLoadReadsV0ToVx`: an access
that may wrap under MASK, the last one that fits under FAULT, and a sprite of no rows. -/
theorem test_witness_access : accessOk .mask 0xFFFF 16 ∧ accessOk .fault 0xFF1 15 ∧ accessOk .fault 0xFFD 3 ∧
    accessOk .fault 0xFF0 (15 + 1) ∧ accessOk .fault 0xFFFF 0 := by decide
/-- `DrawingTwiceRestoresFrameBuffer`: glyph 0 on a blank frame buffer has a set bit; blank memory has none. -/
theorem test_witness_drawing_twice :
    accessOk State.reset.params.oorPolicy State.reset.index.toNat 5 ∧
    (∃ t u, exec (.drw 0 1 5) State.reset = .next t ∧ exec (.drw 0 1 5) { t with v := State.reset.v } = .next u) ∧
    (∀ py px, State.reset.fb.pixel px py = false) ∧
    (∃ r c, r < 5 ∧ c < 8 ∧ (State.reset.cell ((State.reset.index.toNat + r) % 0x1000)).getLsbD (7 - c) = true) ∧
    ∀ r < 5, ∀ c < 8, ((atI State.reset 0x300).cell (((atI State.reset 0x300).index.toNat + r) % 0x1000)).getLsbD (7 - c) =
      false :=
  ⟨by decide, ⟨_, _, rfl, rfl⟩, by simp [State.reset, State.resetWith, FrameBuffer.pixel, Vector.get_eq_getElem],
    ⟨0, 0, by decide, by decide, by decide⟩, by decide⟩
/-- `DataAddressOutOfRangeFaults`: the first failing I of each clause, where the one below it is still in range. -/
theorem test_witness_data_address : strict.oorPolicy = .fault ∧ (0 < 15 ∧ 0x1000 < 0xFF2 + 15) ∧ 0x1000 ≤ 0xFFE + 2 ∧
    0x1000 ≤ 0xFF1 + 15 ∧ accessOk .fault 0xFF1 15 ∧ accessOk .fault 0xFFD 3 ∧ accessOk .fault 0xFF0 16 := by decide

end Sys2Proof.Machine.Tests
end

/-! # What an instruction writes (R12, R13, R47, R49, R99)

`exec_effect` says once what executing an instruction can do to the state, with the instructions that can do it; the
clauses on the single fields are read off its cases. -/

namespace Sys2Proof.Machine

/-! ### PC after a skip and after a retreat -/

theorem State.skipIf_advance_true (s : State) : s.advance.skipIf true = { s with pc := s.pc + 4 } := by
  have hpc : s.pc + 2 + 2 = s.pc + 4 := BitVec.add_assoc ..
  rw [State.skipIf_eq, ← hpc]
  rfl

theorem State.retreat_advance (s : State) : s.advance.retreat = s := by
  have hpc : s.pc + 2 - 2 = s.pc := BitVec.add_sub_cancel ..
  exact congrArg s.setPc hpc

/-! ### The register file -/

/-- `vs` differs from the registers of `s` only where R12 lets `i` write. -/
def WritesNamedRegs (i : Instr) (s : State) (vs : Vector Byte 16) : Prop :=
  ∀ r, vs.get r ≠ s.reg r → mayWriteReg i r

theorem WritesNamedRegs.refl (i : Instr) (s : State) : WritesNamedRegs i s s.v := fun _ hne => absurd rfl hne

theorem WritesNamedRegs.set {i : Instr} {s : State} {vs : Vector Byte 16} {x : Reg} (b : Byte)
    (hv : WritesNamedRegs i s vs) (hx : mayWriteReg i x) : WritesNamedRegs i s (vs.set x b) := by
  intro r hne
  rw [State.get_set] at hne
  split at hne
  · next hrx => exact hrx ▸ hx
  · exact hv r hne

/-! ### The effects -/

/-- The effects an instruction can have on a state, each with the instructions that can have it. A conditional skip
that is not taken and NOP are a `regs` that writes no register. -/
inductive InstrEffect (i : Instr) (s : State) : State → Prop
  /-- Registers are written, and PC moves past the word. -/
  | regs (vs : Vector Byte 16) (hv : WritesNamedRegs i s vs) :
      InstrEffect i s { s with v := vs, pc := s.pc + 2 }
  /-- RND takes a draw (R83). -/
  | draw (vs : Vector Byte 16) (hv : WritesNamedRegs i s vs) (hi : ∃ x nn, i = .rnd x nn) :
      InstrEffect i s { s with v := vs, pc := s.pc + 2, draws := s.draws + 1 }
  /-- CLS and DRW write the frame buffer, DRW also VF (R58, R84). -/
  | screen (vs : Vector Byte 16) (fb : FrameBuffer) (hv : WritesNamedRegs i s vs)
      (hi : i = .cls ∨ ∃ x y n, i = .drw x y n) :
      InstrEffect i s { s with v := vs, pc := s.pc + 2, fb := fb }
  /-- JP and JP V0 (R60, R82). -/
  | jump (a : Word) (hi : ∃ nnn, i = .jp nnn ∨ i = .jpV0 nnn) : InstrEffect i s { s with pc := a }
  /-- CALL pushes and jumps (R61). -/
  | call (stack : Vector Word 16) (sp : Fin 17) (a : Word) (hi : ∃ nnn, i = .call nnn) :
      InstrEffect i s { s with stack := stack, sp := sp, pc := a }
  /-- RET pops (R59). -/
  | ret (sp : Fin 17) (a : Word) (hi : i = .ret) : InstrEffect i s { s with sp := sp, pc := a }
  /-- A conditional skip that is taken (R62). -/
  | skip (hi : isSkip i) : InstrEffect i s { s with pc := s.pc + 4 }
  /-- LD Vx, K with no key pressed changes nothing (R90). -/
  | wait (hi : ∃ x, i = .ldVxK x) : InstrEffect i s s
  /-- I is written (R81, R94, R95). -/
  | index (a : Word) (hi : (∃ nnn, i = .ldI nnn) ∨ (∃ x, i = .addIVx x) ∨ ∃ x, i = .ldFVx x) :
      InstrEffect i s { s with index := a, pc := s.pc + 2 }
  /-- DT is written (R92). -/
  | dt (b : Byte) (hi : ∃ x, i = .ldDtVx x) : InstrEffect i s { s with dt := b, pc := s.pc + 2 }
  /-- ST is written (R93). -/
  | st (b : Byte) (hi : ∃ x, i = .ldStVx x) : InstrEffect i s { s with st := b, pc := s.pc + 2 }
  /-- A block of bytes is stored, as the memory port writes it (R96, R97). -/
  | memory (a : Nat) (bs : List Byte) (m : List Host.Cell) (hi : (∃ x, i = .ldBVx x) ∨ ∃ x, i = .ldMemVx x)
      (hw : s.advance.writeBlock a bs = .ok { s with mem := m, pc := s.pc + 2 }) :
      InstrEffect i s { s with mem := m, pc := s.pc + 2 }
  /-- A fault that R99 lets the instruction raise under the parameters is taken, and nothing is committed (R100). -/
  | fault (f : Fault) (hf : mayRaise i f) (ha : (s.takeFault f (encode i)).faultKindAllowed) :
      InstrEffect i s (s.takeFault f (encode i))

namespace InstrEffect

variable {i : Instr} {s t : State}

/-! ### The effects of the shared operations -/

theorem setReg {x : Reg} (b : Byte) (hx : mayWriteReg i x) : InstrEffect i s (s.advance.setReg x b) :=
  regs _ ((WritesNamedRegs.refl i s).set b hx)

theorem resultThenFlag {x : Reg} (b : Byte) (c : Bool) (hx : mayWriteReg i x) (hf : mayWriteReg i vf) :
    InstrEffect i s (s.advance.resultThenFlag x b c) :=
  regs _ (((WritesNamedRegs.refl i s).set b hx).set _ hf)

theorem flagThenResult {x : Reg} (b : Byte) (c : Bool) (hx : mayWriteReg i x) (hf : mayWriteReg i vf) :
    InstrEffect i s (s.advance.flagThenResult x b c) :=
  regs _ (((WritesNamedRegs.refl i s).set _ hf).set b hx)

theorem shiftWrite {x : Reg} (b : Byte) (c : Bool) (hx : mayWriteReg i x) (hf : mayWriteReg i vf) :
    InstrEffect i s (s.advance.shiftWrite x b c) := by
  unfold State.shiftWrite
  split
  · exact flagThenResult b c hx hf
  · exact resultThenFlag b c hx hf

/-- A block load of V0 up to Vx at most. -/
theorem setRegs {bs : List Byte} (hw : ∀ r : Reg, r.val < bs.length → mayWriteReg i r) :
    InstrEffect i s (s.advance.setRegs 0 bs) := by
  obtain ⟨vs, heq, hget⟩ := s.advance.setRegs_eq bs 0
  rw [heq]
  refine regs vs fun r hne => ?_
  rw [hget r] at hne
  split at hne
  · next hlt => exact hw r (by omega)
  · exact absurd rfl hne

theorem skipIf (c : Bool) (hi : isSkip i) : InstrEffect i s (s.advance.skipIf c) := by
  cases c with
  | false => exact regs s.v (.refl i s)
  | true => exact s.skipIf_advance_true ▸ skip hi

/-- A skip on a key: taken or not, or the fault of the key index. -/
theorem keySkip {x : Reg} (p : Fin 16 → Bool) (hi : i = .skp x ∨ i = .sknp x)
    (h : s.commit (encode i) ((keyIndex s.params.keyIndexPolicy (s.reg x)).map fun k => s.advance.skipIf (p k))
      = .next t) : InstrEffect i s t := by
  obtain ⟨k, -, rfl⟩ | ⟨f, hr, rfl⟩ := State.commit_map_cases h
  · exact skipIf _ (.inr (.inr ⟨x, hi⟩))
  · obtain hok | ⟨herr, hp⟩ := keyIndex_cases s.params.keyIndexPolicy (s.reg x)
    · rw [hok] at hr; cases hr
    · obtain rfl : Fault.keyIndexRange = f := Except.error.inj (herr.symm.trans hr)
      exact fault _ (.inr (.inr (.inl ⟨⟨x, hi⟩, rfl⟩))) (by simp [State.faultKindAllowed, hp])

/-- The fault of the memory port, which needs OOR_POLICY = FAULT. -/
theorem addressFault {a n : Nat} (hacc : ¬ accessOk s.params.oorPolicy a n)
    (hi : (∃ x y n, i = .drw x y n) ∨ ∃ x, i = .ldBVx x ∨ i = .ldMemVx x ∨ i = .ldVxMem x) :
    InstrEffect i s (s.takeFault .addressRange (encode i)) := by
  have hp : s.params.oorPolicy = .fault := by
    cases hc : s.params.oorPolicy with
    | mask => exact absurd (.inl hc) hacc
    | fault => rfl
  exact fault _ (.inr (.inr (.inr ⟨hi, rfl⟩))) (by simp [State.faultKindAllowed, hp])

/-- An instruction that reads a block: the bytes, as many as asked for, or the fault of the memory port. -/
theorem blockLoad {a n : Nat} {f : List Byte → State}
    (hi : (∃ x y n, i = .drw x y n) ∨ ∃ x, i = .ldBVx x ∨ i = .ldMemVx x ∨ i = .ldVxMem x)
    (hok : ∀ bs : List Byte, bs.length = n → InstrEffect i s (f bs))
    (h : s.commit (encode i) ((s.readBlock a n).map f) = .next t) : InstrEffect i s t := by
  rw [State.readBlock_eq] at h
  split at h
  · cases h; exact hok _ (by simp)
  · next hacc => cases h; exact addressFault hacc hi

/-- An instruction that stores a block: memory written, or the fault of the memory port. -/
theorem blockStore {a : Nat} {bs : List Byte} (hi : (∃ x, i = .ldBVx x) ∨ ∃ x, i = .ldMemVx x)
    (h : s.commit (encode i) (s.advance.writeBlock a bs) = .next t) : InstrEffect i s t := by
  obtain ⟨-, m, hw⟩ | ⟨hacc, herr⟩ := State.writeBlock_cases bs s.advance a
  · rw [hw] at h
    cases h
    exact memory a bs m hi hw
  · rw [herr] at h
    cases h
    refine addressFault hacc (.inr ?_)
    obtain ⟨x, rfl⟩ | ⟨x, rfl⟩ := hi
    · exact ⟨x, .inl rfl⟩
    · exact ⟨x, .inr (.inl rfl)⟩

end InstrEffect

/-! ### The effect of each instruction -/

theorem execRet_effect {s t : State} (h : execRet s = .next t) : InstrEffect .ret s t := by
  unfold execRet at h
  rw [State.popPc_eq] at h
  split at h
  · cases h; exact .ret _ _ rfl
  · cases h; exact .fault .stackUnderflow (.inl ⟨rfl, rfl⟩) (by simp [State.faultKindAllowed])

theorem execCall_effect {nnn : Addr12} {s t : State} (h : execCall nnn s = .next t) :
    InstrEffect (.call nnn) s t := by
  unfold execCall at h
  rw [State.pushPc_eq] at h
  split at h
  · cases h; exact .call _ _ _ ⟨nnn, rfl⟩
  · cases h; exact .fault .stackOverflow (.inr (.inl ⟨⟨nnn, rfl⟩, rfl⟩)) (by simp [State.faultKindAllowed])

theorem execLdVxK_effect {x : Reg} {s t : State} (h : execLdVxK x s = .next t) :
    InstrEffect (.ldVxK x) s t := by
  unfold execLdVxK at h
  split at h
  · cases h; exact .setReg _ (by simp [mayWriteReg])
  · cases h
    exact s.retreat_advance.symm ▸ .wait ⟨x, rfl⟩

/-- What executing an instruction does is one of the effects that the spec names for it. -/
theorem exec_effect {i : Instr} {s t : State} (h : exec i s = .next t) : InstrEffect i s t := by
  cases i with
  | nop => cases h; exact .regs s.v (.refl _ s)
  | cls => cases h; exact .screen s.v _ (.refl _ s) (.inl rfl)
  | ret => exact execRet_effect h
  | jp nnn => cases h; exact .jump _ ⟨nnn, .inl rfl⟩
  | jpV0 nnn => cases h; exact .jump _ ⟨nnn, .inr rfl⟩
  | call nnn => exact execCall_effect h
  | seByte x nn => cases h; exact .skipIf _ (.inl ⟨x, nn, .inl rfl⟩)
  | sneByte x nn => cases h; exact .skipIf _ (.inl ⟨x, nn, .inr rfl⟩)
  | seReg x y => cases h; exact .skipIf _ (.inr (.inl ⟨x, y, .inl rfl⟩))
  | sneReg x y => cases h; exact .skipIf _ (.inr (.inl ⟨x, y, .inr rfl⟩))
  | skp x => exact .keySkip s.key (.inl rfl) h
  | sknp x => exact .keySkip (fun k => !s.key k) (.inr rfl) h
  | ldByte x nn | addByte x nn | ldReg x y | or x y | and x y | xor x y | ldVxDt x =>
    cases h; exact .setReg _ (by simp [mayWriteReg])
  | addReg x y | sub x y | subn x y =>
    cases h; exact .resultThenFlag _ _ (by simp [mayWriteReg]) (by simp [mayWriteReg])
  | shr x y | shl x y =>
    cases h; exact .shiftWrite _ _ (by simp [mayWriteReg]) (by simp [mayWriteReg])
  | rnd x nn => cases h; exact .draw _ ((WritesNamedRegs.refl _ s).set _ (by simp [mayWriteReg])) ⟨x, nn, rfl⟩
  | ldVxK x => exact execLdVxK_effect h
  | ldI nnn => cases h; exact .index _ (.inl ⟨nnn, rfl⟩)
  | addIVx x => cases h; exact .index _ (.inr (.inl ⟨x, rfl⟩))
  | ldFVx x => cases h; exact .index _ (.inr (.inr ⟨x, rfl⟩))
  | ldDtVx x => cases h; exact .dt _ ⟨x, rfl⟩
  | ldStVx x => cases h; exact .st _ ⟨x, rfl⟩
  | ldBVx x => exact .blockStore (.inl ⟨x, rfl⟩) h
  | ldMemVx x => exact .blockStore (.inr ⟨x, rfl⟩) h
  | ldVxMem x =>
    refine .blockLoad (.inr ⟨x, .inr (.inr rfl)⟩) (fun bs hlen => .setRegs fun r hr => ?_) h
    have hrx : r ≤ x := Fin.le_def.mpr (by omega)
    simp [mayWriteReg, hrx]
  | drw x y n =>
    exact .blockLoad (.inl ⟨x, y, n, rfl⟩) (fun bs _ => .screen _ _
      ((WritesNamedRegs.refl _ s).set _ (by simp [mayWriteReg])) (.inr ⟨x, y, n, rfl⟩)) h

/-! ### Who writes each field -/

namespace InstrEffect

variable {i : Instr} {s t : State}

theorem reg_writer (h : InstrEffect i s t) : WritesNamedRegs i s t.v := by
  cases h with
  | regs _ hv | draw _ hv _ | screen _ _ hv _ => exact hv
  | _ => exact .refl i s

theorem pc_writer (h : InstrEffect i s t) (hne : t.pc ≠ s.pc + 2) :
    (i = .ret ∨ ∃ nnn, i = .jp nnn ∨ i = .call nnn ∨ i = .jpV0 nnn) ∨ (isSkip i ∧ t.pc = s.pc + 4) ∨
    ((∃ x, i = .ldVxK x) ∧ t.pc = s.pc) ∨ ∃ f, mayRaise i f ∧ s.tookFault t f := by
  cases h with
  | ret _ _ hi => exact .inl (.inl hi)
  | call _ _ _ hi =>
    obtain ⟨nnn, hi⟩ := hi
    exact .inl (.inr ⟨nnn, .inr (.inl hi)⟩)
  | jump _ hi =>
    obtain ⟨nnn, hi | hi⟩ := hi
    · exact .inl (.inr ⟨nnn, .inl hi⟩)
    · exact .inl (.inr ⟨nnn, .inr (.inr hi)⟩)
  | skip hi => exact .inr (.inl ⟨hi, rfl⟩)
  | wait hi => exact .inr (.inr (.inl ⟨hi, rfl⟩))
  | fault f hf _ => exact .inr (.inr (.inr ⟨f, hf, rfl⟩))
  | _ => exact absurd rfl hne

theorem faultReport_writer (h : InstrEffect i s t)
    (hne : t.runState ≠ s.runState ∨ t.faultKind ≠ s.faultKind ∨ t.faultWord ≠ s.faultWord ∨ t.faultPc ≠ s.faultPc) :
    ∃ f, mayRaise i f ∧ s.tookFault t f := by
  cases h with
  | fault f hf _ => exact ⟨f, hf, rfl⟩
  | _ => simp at hne

theorem stack_writer (h : InstrEffect i s t) (hne : t.stack ≠ s.stack) : ∃ nnn, i = .call nnn := by
  cases h with
  | call _ _ _ hi => exact hi
  | _ => exact absurd rfl hne

theorem sp_writer (h : InstrEffect i s t) (hne : t.sp ≠ s.sp) : i = .ret ∨ ∃ nnn, i = .call nnn := by
  cases h with
  | ret _ _ hi => exact .inl hi
  | call _ _ _ hi => exact .inr hi
  | _ => exact absurd rfl hne

theorem index_writer (h : InstrEffect i s t) (hne : t.index ≠ s.index) :
    (∃ nnn, i = .ldI nnn) ∨ (∃ x, i = .addIVx x) ∨ ∃ x, i = .ldFVx x := by
  cases h with
  | index _ hi => exact hi
  | _ => exact absurd rfl hne

theorem dt_writer (h : InstrEffect i s t) (hne : t.dt ≠ s.dt) : ∃ x, i = .ldDtVx x := by
  cases h with
  | dt _ hi => exact hi
  | _ => exact absurd rfl hne

theorem st_writer (h : InstrEffect i s t) (hne : t.st ≠ s.st) : ∃ x, i = .ldStVx x := by
  cases h with
  | st _ hi => exact hi
  | _ => exact absurd rfl hne

theorem fb_writer (h : InstrEffect i s t) (hne : t.fb ≠ s.fb) : i = .cls ∨ ∃ x y n, i = .drw x y n := by
  cases h with
  | screen _ _ _ hi => exact hi
  | _ => exact absurd rfl hne

theorem mem_writer (h : InstrEffect i s t) (hne : t.mem ≠ s.mem) : (∃ x, i = .ldBVx x) ∨ ∃ x, i = .ldMemVx x := by
  cases h with
  | memory _ _ _ hi _ => exact hi
  | _ => exact absurd rfl hne

theorem draws_writer (h : InstrEffect i s t) (hne : t.draws ≠ s.draws) : ∃ x nn, i = .rnd x nn := by
  cases h with
  | draw _ _ hi => exact hi
  | _ => exact absurd rfl hne

/-- No instruction writes the keys, LOADED or the parameters. -/
theorem keys_loaded_params (h : InstrEffect i s t) :
    t.keys = s.keys ∧ t.loaded = s.loaded ∧ t.params = s.params := by
  cases h <;> exact ⟨rfl, rfl, rfl⟩

end InstrEffect

/-- Settles O16: the clauses, field by field, of the effect the instruction has. -/
theorem onlyNamedInstructionsWriteEachField : Obligations.OnlyNamedInstructionsWriteEachField := by
  unfold Obligations.OnlyNamedInstructionsWriteEachField
  intro i s t hexec
  have h := exec_effect hexec
  exact ⟨h.reg_writer, h.pc_writer, h.faultReport_writer, h.stack_writer, h.sp_writer, h.index_writer, h.dt_writer,
    h.st_writer, h.fb_writer, h.mem_writer, h.draws_writer, h.keys_loaded_params⟩

/-- Settles O17: R12's writers of VF; the only block load that reaches VF is the one up to VF itself. -/
theorem onlyFlagWritersOrDestinationChangeVf : Obligations.OnlyFlagWritersOrDestinationChangeVf := by
  unfold Obligations.OnlyFlagWritersOrDestinationChangeVf
  intro i s t hexec hne
  obtain hbyte | ⟨y, hreg⟩ | ⟨x, rfl⟩ | rfl | rfl | ⟨x, hx, rfl⟩ | ⟨-, hflag | hdrw⟩ :=
    (exec_effect hexec).reg_writer vf hne
  · exact .inr (.inr (.inl hbyte))
  · obtain rfl | rfl | rfl | rfl | rfl | rfl | rfl | rfl := hreg <;> simp
  · simp
  · simp
  · simp
  · obtain rfl : x = vf := Fin.last_le_iff.mp hx
    simp
  · exact .inl hflag
  · exact .inr (.inl hdrw)

end Sys2Proof.Machine

/-! # Memory: what a write makes visible, and an access out of range (20_memory.md)

The laws of the memory port say what a write, a read, a fetch and a block do where `accessOk` holds and where it does
not. Here an answer of the port is read backwards, to the cell it reached, and a block that OOR_POLICY refuses is carried
to the end of its STEP. -/

namespace Sys2Proof.Machine

/-! ### Answers of the memory port -/

/-- A write that answers set the cell its address reaches. -/
theorem State.eq_setCell_of_memWrite {s t : State} {a : Nat} {b : Byte} (h : s.memWrite a b = .ok t) :
    t = s.setCell (reach a) b := by
  rw [State.memWrite_eq] at h
  split at h
  · exact (Except.ok.inj h).symm
  · cases h

/-- A fetch that answers read the cells PC and PC + 1 reach. -/
theorem State.eq_wordOfBytes_of_fetchWord {s : State} {w : Word} (h : s.fetchWord = .ok w) :
    w = wordOfBytes (s.cell (reach s.pc.toNat)) (s.cell (reach (s.pc.toNat + 1))) := by
  rw [State.fetchWord_eq] at h
  split at h
  · exact (Except.ok.inj h).symm
  · cases h

theorem wordOfBytes_highByte (hi lo : Byte) : (wordOfBytes hi lo).extractLsb' 8 8 = hi :=
  BitVec.extractLsb'_append_eq_left

theorem wordOfBytes_lowByte (hi lo : Byte) : (wordOfBytes hi lo).extractLsb' 0 8 = lo :=
  BitVec.extractLsb'_append_eq_right

/-! ### Accesses out of range -/

/-- Under OOR_POLICY = FAULT an access of at least one byte that ends above 0x1000 is refused (R30). -/
theorem not_accessOk_of_fault {p : OorPolicy} {a n : Nat} (hp : p = .fault) (hn : 0 < n)
    (ha : Config.memSize < a + n) : ¬ accessOk p a n := by
  rintro (hmask | hzero | hle)
  · rw [hp] at hmask; cases hmask
  · omega
  · omega

/-- An instruction that begins with a refused block read takes ADDRESS_RANGE and keeps none of its work (R102). -/
theorem State.commit_readBlock_refused {s : State} {a n : Nat} (w : Word) (f : List Byte → State)
    (h : ¬ accessOk s.params.oorPolicy a n) :
    s.commit w ((s.readBlock a n).map f) = .next (s.takeFault .addressRange w) := by
  rw [State.readBlock_eq, if_neg h]; rfl

/-- An instruction whose block write is refused takes ADDRESS_RANGE, and the bytes before the refused one are not kept
either (R102). -/
theorem State.commit_writeBlock_refused {s : State} {a : Nat} {bs : List Byte} (w : Word)
    (h : ¬ accessOk s.params.oorPolicy a bs.length) :
    s.commit w (s.advance.writeBlock a bs) = .next (s.takeFault .addressRange w) := by
  obtain ⟨hok, -⟩ | ⟨-, herr⟩ := State.writeBlock_cases bs s.advance a
  · exact absurd hok h
  · rw [herr]; rfl

/-! ### The obligations -/

/-- Settles O15: the write set one cell, and the port and the fetch read the cells their addresses reach. -/
theorem writeIsSeenByReadAndFetch : Obligations.WriteIsSeenByReadAndFetch := by
  unfold Obligations.WriteIsSeenByReadAndFetch
  intro s t a b h
  obtain rfl := State.eq_setCell_of_memWrite h
  have hcell : (s.setCell (reach a) b).cell (reach a) = b := by rw [State.cell_setCell, if_pos rfl]
  refine ⟨rfl, hcell, fun c hc => ?_, fun c hc hok => ?_, fun w p hw => ?_⟩
  · rw [State.cell_setCell, if_neg hc]
  · rw [State.memRead_eq, if_pos hok, show reach c = reach a from hc, hcell]
  · rw [State.eq_wordOfBytes_of_fetchWord hw]
    constructor
    · intro hp
      rw [wordOfBytes_highByte, show reach p.toNat = reach a from hp]
      exact hcell
    · intro hp
      rw [wordOfBytes_lowByte, show reach (p.toNat + 1) = reach a from hp]
      exact hcell

/-- Settles O51: each instruction's block is refused, because its last address is 0x1000 or above. -/
theorem dataAddressOutOfRangeFaults : Obligations.DataAddressOutOfRangeFaults := by
  unfold Obligations.DataAddressOutOfRangeFaults
  intro x y n s hp
  refine ⟨fun hn ha => ?_, fun ha => ?_, fun ha => ⟨?_, ?_⟩⟩
  · exact State.commit_readBlock_refused _ _ (not_accessOk_of_fault hp hn ha)
  · exact State.commit_writeBlock_refused _ (not_accessOk_of_fault hp (by simp [bcdDigits]) (Nat.lt_succ_of_le ha))
  · refine State.commit_writeBlock_refused _ ?_
    rw [State.regsUpTo_length]
    exact not_accessOk_of_fault hp x.val.succ_pos (Nat.lt_succ_of_le ha)
  · exact State.commit_readBlock_refused _ _ (not_accessOk_of_fault hp x.val.succ_pos (Nat.lt_succ_of_le ha))

/-- Settles O8: the two cases of the fetch; under FAULT the access at PC + 1 is refused. -/
theorem fetchReadsBigEndianWord : Obligations.FetchReadsBigEndianWord := by
  unfold Obligations.FetchReadsBigEndianWord
  intro s
  refine ⟨fun hok => ?_, fun hp ha => ?_⟩
  · rw [State.fetchWord_eq, if_pos hok]; rfl
  · have hrefused := not_accessOk_of_fault hp Nat.two_pos (Nat.lt_succ_of_le ha)
    rw [State.fetchWord_eq, if_neg hrefused]

end Sys2Proof.Machine

/-! # The encoding (30_encoding.md)

`decodeWord_eq_ok_iff` says that the decoder inverts the encoder, in both directions; what the opcode table and the
UNIMPLEMENTED words have to do with the decoder follows from it and from the families of R50. -/

namespace Sys2Proof

/-! ### The decoder reads an encoded instruction back -/

theorem decodeWord_encode (i : Instr) : decodeWord (encode i) = .ok i := by
  cases i with
  | nop | cls | ret => rfl
  | jp nnn | call nnn | ldI nnn | jpV0 nnn => simp [encode, decodeWord]
  | seByte x nn | sneByte x nn | ldByte x nn | addByte x nn | rnd x nn => simp [encode, decodeWord]
  | seReg x y | sneReg x y => simp [encode, decodeWord]
  | drw x y n => simp [encode, decodeWord, fieldN, nibble]
  | ldReg x y | or x y | and x y | xor x y | addReg x y | sub x y | shr x y | subn x y | shl x y =>
    simp [encode, decodeWord, decodeFamily8]
  | skp x | sknp x => simp [encode, decodeWord, decodeFamilyE]
  | ldVxDt x | ldVxK x | ldDtVx x | ldStVx x | addIVx x | ldFVx x | ldBVx x | ldMemVx x | ldVxMem x =>
    simp [encode, decodeWord, decodeFamilyF]

/-! ### A decoded instruction encodes to its word -/

theorem encode_of_decodeFamily0 {w : Word} {i : Instr} (h : decodeFamily0 w = .ok i) : encode i = w := by
  unfold decodeFamily0 at h
  split_ifs at h with hw hw hw <;> cases h <;> exact hw.symm

theorem encode_of_decodeFamily8 {w : Word} {i : Instr}
    (hw : formXyn 0x8 (fieldX w) (fieldY w) (fieldN4 w) = w) (h : decodeFamily8 w = .ok i) : encode i = w := by
  unfold decodeFamily8 at h
  split at h
  case h_10 => cases h
  all_goals next hn4 => cases h; rw [hn4] at hw; exact hw

theorem encode_of_decodeFamilyE {w : Word} {i : Instr}
    (hw : formXnn 0xE (fieldX w) (fieldNN w) = w) (h : decodeFamilyE w = .ok i) : encode i = w := by
  unfold decodeFamilyE at h
  split at h
  case h_3 => cases h
  all_goals next hnn => cases h; rw [hnn] at hw; exact hw

theorem encode_of_decodeFamilyF {w : Word} {i : Instr}
    (hw : formXnn 0xF (fieldX w) (fieldNN w) = w) (h : decodeFamilyF w = .ok i) : encode i = w := by
  unfold decodeFamilyF at h
  split at h
  case h_10 => cases h
  all_goals next hnn => cases h; rw [hnn] at hw; exact hw

/-- The family the decoder leaves for last is F. -/
theorem eq_F_of_ne_others : ∀ n : BitVec 4, n ≠ 0x0 → n ≠ 0x1 → n ≠ 0x2 → n ≠ 0x3 → n ≠ 0x4 → n ≠ 0x5 →
    n ≠ 0x6 → n ≠ 0x7 → n ≠ 0x8 → n ≠ 0x9 → n ≠ 0xA → n ≠ 0xB → n ≠ 0xC → n ≠ 0xD → n ≠ 0xE → n = 0xF := by
  intros
  bv_omega

/-- A word is the layout of its own fields, and its family says which of them are fixed. -/
theorem encode_of_decodeWord {w : Word} {i : Instr} (h : decodeWord w = .ok i) : encode i = w := by
  have haddr := formAddr_fields w
  have hxnn := formXnn_fields w
  have hxyn := formXyn_fields w
  unfold decodeWord at h
  split at h
  case h_1 => exact encode_of_decodeFamily0 h
  case h_2 hn1 | h_3 hn1 | h_11 hn1 | h_12 hn1 => cases h; rw [hn1] at haddr; exact haddr
  case h_4 hn1 | h_5 hn1 | h_7 hn1 | h_8 hn1 | h_13 hn1 => cases h; rw [hn1] at hxnn; exact hxnn
  case h_6 hn1 | h_10 hn1 =>
    split at h
    · next hn4 => cases h; rw [hn1, hn4] at hxyn; exact hxyn
    · cases h
  case h_9 hn1 => rw [hn1] at hxyn; exact encode_of_decodeFamily8 hxyn h
  case h_14 hn1 => cases h; rw [hn1] at hxyn; exact hxyn
  case h_15 hn1 => rw [hn1] at hxnn; exact encode_of_decodeFamilyE hxnn h
  case h_16 =>
    have hn1 : fieldN1 w = 0xF := by apply eq_F_of_ne_others <;> assumption
    rw [hn1] at hxnn
    exact encode_of_decodeFamilyF hxnn h

/-- Decoding inverts encoding, in both directions. -/
theorem decodeWord_eq_ok_iff {w : Word} {i : Instr} : decodeWord w = .ok i ↔ encode i = w := by
  constructor
  · exact encode_of_decodeWord
  · rintro rfl
    exact decodeWord_encode i

/-! ### A word under the mask of a row -/

theorem formAddr_of_covers {op : BitVec 4} {w : Word} (h : w &&& 0xF000#16 = formAddr op 0) :
    formAddr op (fieldNNN w) = w := by
  have hop : fieldN1 w = op := by
    rw [← formAddr_fields w, Laws.formAddr_covered] at h
    simpa using congrArg fieldN1 h
  rw [← hop, formAddr_fields]

theorem formXnn_of_covers {op : BitVec 4} {w : Word} (h : w &&& 0xF000#16 = formAddr op 0) :
    formXnn op (fieldX w) (fieldNN w) = w := by
  have hop : fieldN1 w = op := by rw [← formAddr_of_covers h, fieldN1_formAddr]
  rw [← hop, formXnn_fields]

theorem formXyn_of_covers {op : BitVec 4} {w : Word} (h : w &&& 0xF000#16 = formAddr op 0) :
    formXyn op (fieldX w) (fieldY w) (fieldN4 w) = w := by
  have hop : fieldN1 w = op := by rw [← formAddr_of_covers h, fieldN1_formAddr]
  rw [← hop, formXyn_fields]

theorem formXy_of_covers {op n : BitVec 4} {w : Word} (h : w &&& 0xF00F#16 = formXyn op 0 0 n) :
    formXyn op (fieldX w) (fieldY w) n = w := by
  rw [← formXyn_fields w, Laws.formXy_covered] at h
  have hop : fieldN1 w = op := by simpa using congrArg fieldN1 h
  have hn : fieldN4 w = n := by simpa using congrArg fieldN4 h
  rw [← hop, ← hn, formXyn_fields]

theorem formX_of_covers {op : BitVec 4} {nn : Byte} {w : Word} (h : w &&& 0xF0FF#16 = formXnn op 0 nn) :
    formXnn op (fieldX w) nn = w := by
  rw [← formXnn_fields w, Laws.formX_covered] at h
  have hop : fieldN1 w = op := by simpa using congrArg fieldN1 h
  have hnn : fieldNN w = nn := by simpa using congrArg fieldNN h
  rw [← hop, ← hnn, formXnn_fields]

theorem eq_of_covers_allOnes {v w : Word} (h : w &&& 0xFFFF#16 = v) : v = w := by
  rw [← h]
  exact BitVec.and_allOnes

/-! ### The rows of the table and the encoder -/

theorem row_covers_encode (i : Instr) : i.row.covers (encode i) := by
  cases i with
  | nop | cls | ret => rfl
  | jp nnn | call nnn | ldI nnn | jpV0 nnn => exact Laws.formAddr_covered ..
  | seByte x nn | sneByte x nn | ldByte x nn | addByte x nn | rnd x nn => exact Laws.formXnn_covered ..
  | drw x y n => exact Laws.formXyn_covered ..
  | seReg x y | sneReg x y | ldReg x y | or x y | and x y | xor x y | addReg x y | sub x y | shr x y | subn x y
  | shl x y => exact Laws.formXy_covered ..
  | skp x | sknp x | ldVxDt x | ldVxK x | ldDtVx x | ldStVx x | addIVx x | ldFVx x | ldBVx x | ldMemVx x
  | ldVxMem x => exact Laws.formX_covered ..

/-- A word that an instruction's row covers is the word of that instruction with the operands the word holds. -/
theorem exists_encode_of_row_covers {i : Instr} {w : Word} (h : i.row.covers w) : ∃ j, encode j = w := by
  cases i with
  | nop => exact ⟨.nop, eq_of_covers_allOnes h⟩
  | cls => exact ⟨.cls, eq_of_covers_allOnes h⟩
  | ret => exact ⟨.ret, eq_of_covers_allOnes h⟩
  | jp => exact ⟨.jp (fieldNNN w), formAddr_of_covers h⟩
  | call => exact ⟨.call (fieldNNN w), formAddr_of_covers h⟩
  | ldI => exact ⟨.ldI (fieldNNN w), formAddr_of_covers h⟩
  | jpV0 => exact ⟨.jpV0 (fieldNNN w), formAddr_of_covers h⟩
  | seByte => exact ⟨.seByte (fieldX w) (fieldNN w), formXnn_of_covers h⟩
  | sneByte => exact ⟨.sneByte (fieldX w) (fieldNN w), formXnn_of_covers h⟩
  | ldByte => exact ⟨.ldByte (fieldX w) (fieldNN w), formXnn_of_covers h⟩
  | addByte => exact ⟨.addByte (fieldX w) (fieldNN w), formXnn_of_covers h⟩
  | rnd => exact ⟨.rnd (fieldX w) (fieldNN w), formXnn_of_covers h⟩
  | drw => exact ⟨.drw (fieldX w) (fieldY w) (fieldN w), formXyn_of_covers h⟩
  | seReg => exact ⟨.seReg (fieldX w) (fieldY w), formXy_of_covers h⟩
  | sneReg => exact ⟨.sneReg (fieldX w) (fieldY w), formXy_of_covers h⟩
  | ldReg => exact ⟨.ldReg (fieldX w) (fieldY w), formXy_of_covers h⟩
  | or => exact ⟨.or (fieldX w) (fieldY w), formXy_of_covers h⟩
  | and => exact ⟨.and (fieldX w) (fieldY w), formXy_of_covers h⟩
  | xor => exact ⟨.xor (fieldX w) (fieldY w), formXy_of_covers h⟩
  | addReg => exact ⟨.addReg (fieldX w) (fieldY w), formXy_of_covers h⟩
  | sub => exact ⟨.sub (fieldX w) (fieldY w), formXy_of_covers h⟩
  | shr => exact ⟨.shr (fieldX w) (fieldY w), formXy_of_covers h⟩
  | subn => exact ⟨.subn (fieldX w) (fieldY w), formXy_of_covers h⟩
  | shl => exact ⟨.shl (fieldX w) (fieldY w), formXy_of_covers h⟩
  | skp => exact ⟨.skp (fieldX w), formX_of_covers h⟩
  | sknp => exact ⟨.sknp (fieldX w), formX_of_covers h⟩
  | ldVxDt => exact ⟨.ldVxDt (fieldX w), formX_of_covers h⟩
  | ldVxK => exact ⟨.ldVxK (fieldX w), formX_of_covers h⟩
  | ldDtVx => exact ⟨.ldDtVx (fieldX w), formX_of_covers h⟩
  | ldStVx => exact ⟨.ldStVx (fieldX w), formX_of_covers h⟩
  | addIVx => exact ⟨.addIVx (fieldX w), formX_of_covers h⟩
  | ldFVx => exact ⟨.ldFVx (fieldX w), formX_of_covers h⟩
  | ldBVx => exact ⟨.ldBVx (fieldX w), formX_of_covers h⟩
  | ldMemVx => exact ⟨.ldMemVx (fieldX w), formX_of_covers h⟩
  | ldVxMem => exact ⟨.ldVxMem (fieldX w), formX_of_covers h⟩

/-- One instruction for each row, in the order of the table. -/
def rowInstrs : List Instr :=
  [.nop, .cls, .ret, .jp 0, .call 0, .seByte 0 0, .sneByte 0 0, .seReg 0 0, .sneReg 0 0, .ldByte 0 0, .addByte 0 0,
   .ldReg 0 0, .or 0 0, .and 0 0, .xor 0 0, .addReg 0 0, .sub 0 0, .shr 0 0, .subn 0 0, .shl 0 0,
   .ldI 0, .jpV0 0, .rnd 0 0, .drw 0 0 0, .skp 0, .sknp 0, .ldVxK 0, .ldVxDt 0, .ldDtVx 0, .ldStVx 0, .addIVx 0,
   .ldFVx 0, .ldBVx 0, .ldMemVx 0, .ldVxMem 0]

theorem opTable_eq_map_row : opTable = rowInstrs.map Instr.row := rfl

theorem row_mem_opTable (i : Instr) : i.row ∈ opTable := by
  cases i <;> simp [opTable_eq_map_row, rowInstrs, Instr.row]

theorem exists_row_of_mem_opTable {r : OpRow} (h : r ∈ opTable) : ∃ i : Instr, i.row = r := by
  rw [opTable_eq_map_row] at h
  obtain ⟨i, -, hi⟩ := List.mem_map.mp h
  exact ⟨i, hi⟩

theorem opTable_wf : ∀ r ∈ opTable, r.wf := by decide

theorem opTable_apart : opTable.Pairwise OpRow.apart := by decide

theorem exists_encode_iff_covered (w : Word) : (∃ i, encode i = w) ↔ ∃ r ∈ opTable, r.covers w := by
  constructor
  · rintro ⟨i, rfl⟩
    exact ⟨i.row, row_mem_opTable i, row_covers_encode i⟩
  · rintro ⟨r, hr, hcov⟩
    obtain ⟨i, rfl⟩ := exists_row_of_mem_opTable hr
    exact exists_encode_of_row_covers hcov

/-! ### The words that a family does not decode (R53) -/

theorem decodeFamily0_eq_unimplemented_iff (w : Word) : decodeFamily0 w = .error (.unimplemented w) ↔
    w.toNat ≠ 0x0000 ∧ w.toNat ≠ 0x00E0 ∧ w.toNat ≠ 0x00EE := by
  unfold decodeFamily0
  split_ifs with h0 h1 h2
  · simp [h0]
  · simp [h1]
  · simp [h2]
  · simp only [true_iff]; bv_omega

theorem decodeFamily8_eq_unimplemented_iff (w : Word) : decodeFamily8 w = .error (.unimplemented w) ↔
    w.toNat % 0x10 ∈ [0x8, 0x9, 0xA, 0xB, 0xC, 0xD, 0xF] := by
  rw [← fieldN4_toNat]
  unfold decodeFamily8
  split
  case h_10 =>
    simp only [imp_false, ← BitVec.toNat_inj, BitVec.toNat_ofNat, List.mem_cons, List.not_mem_nil, or_false,
      true_iff] at *
    omega
  all_goals next hn4 => simp [hn4]

theorem decodeFamilyE_eq_unimplemented_iff (w : Word) : decodeFamilyE w = .error (.unimplemented w) ↔
    w.toNat % 0x100 ∉ [0x9E, 0xA1] := by
  rw [← fieldNN_toNat]
  unfold decodeFamilyE
  split
  case h_3 => simp_all [← BitVec.toNat_inj]
  all_goals next hnn => simp [hnn]

theorem decodeFamilyF_eq_unimplemented_iff (w : Word) : decodeFamilyF w = .error (.unimplemented w) ↔
    w.toNat % 0x100 ∉ [0x07, 0x0A, 0x15, 0x18, 0x1E, 0x29, 0x33, 0x55, 0x65] := by
  rw [← fieldNN_toNat]
  unfold decodeFamilyF
  split
  case h_10 => simp_all [← BitVec.toNat_inj]
  all_goals next hnn => simp [hnn]

theorem fieldN4_eq_zero_iff (w : Word) : fieldN4 w = 0 ↔ w.toNat % 0x10 = 0 := by
  rw [← fieldN4_toNat, ← BitVec.toNat_inj]
  rfl

/-! ### The byte stream (R42) -/

theorem decode_cons_cons {hi lo : Byte} {i : Instr} (rest : List Byte) (h : decodeWord (wordOfBytes hi lo) = .ok i) :
    decode (hi :: lo :: rest) = .ok (i, rest) := by
  simp [decode, h]

/-! ### The obligations on the encoding -/

/-- Settles O1: the fields of an encoded word are the operands it was made from. -/
theorem decodeOfEncodeIsIdentity : Obligations.DecodeOfEncodeIsIdentity := decodeWord_encode

/-- Settles O2: a decoded instruction encodes to the layout of the word's own fields. -/
theorem encodeOfDecodeIsWord : Obligations.EncodeOfDecodeIsWord := fun _ _ => encode_of_decodeWord

/-- Settles O3: the words that decode are the encoded ones, and these are the words the rows cover. -/
theorem decodeAcceptsExactlyTheTable : Obligations.DecodeAcceptsExactlyTheTable := by
  unfold Obligations.DecodeAcceptsExactlyTheTable
  refine ⟨rfl, opTable_wf, opTable_apart, fun w => ?_⟩
  simp only [decodeWord_eq_ok_iff]
  refine ⟨exists_encode_iff_covered w, ?_⟩
  rintro i rfl
  exact ⟨row_mem_opTable i, row_covers_encode i⟩

/-- Settles O4: the family by n1, and in it the words its own selector leaves out. -/
theorem unimplementedWordsByFamily : Obligations.UnimplementedWordsByFamily := by
  unfold Obligations.UnimplementedWordsByFamily
  intro w
  rw [← fieldN1_toNat]
  unfold decodeWord
  split
  case h_1 hn1 => simp [hn1, decodeFamily0_eq_unimplemented_iff]
  case h_6 hn1 | h_10 hn1 => split_ifs with hn4 <;> rw [fieldN4_eq_zero_iff] at hn4 <;> simp [hn1, hn4]
  case h_9 hn1 => simp [hn1, decodeFamily8_eq_unimplemented_iff]
  case h_15 hn1 => simp [hn1, decodeFamilyE_eq_unimplemented_iff]
  case h_16 =>
    have hn1 : fieldN1 w = 0xF := by apply eq_F_of_ne_others <;> assumption
    simp [hn1, decodeFamilyF_eq_unimplemented_iff]
  all_goals next hn1 => simp [hn1]

/-- Settles O5: the head of the stream is one word, and a shorter stream has none. -/
theorem streamDecodeTakesTwoBytes : Obligations.StreamDecodeTakesTwoBytes := by
  unfold Obligations.StreamDecodeTakesTwoBytes
  refine ⟨fun hi lo rest i h => decode_cons_cons rest h, fun bytes hlen => ?_⟩
  match bytes with
  | [] | [_] => rfl
  | _ :: _ :: _ => simp at hlen

/-- Settles O6: each sample word is the encoding of its instruction. -/
theorem sampleWordsDecode : Obligations.SampleWordsDecode :=
  ⟨decodeWord_encode .ret, decodeWord_encode (.jp 0x234), decodeWord_encode (.call 0x20A),
    decodeWord_encode (.seByte 3 0x42), decodeWord_encode (.sneByte 3 0x42), decodeWord_encode (.seReg 1 2),
    decodeWord_encode (.ldByte 0 0x0A), decodeWord_encode (.addByte 2 0x03), decodeWord_encode (.subn 0 1),
    decodeWord_encode (.sneReg 1 2), decodeWord_encode (.ldI 0x300), decodeWord_encode (.jpV0 0x520),
    decodeWord_encode (.rnd 3 0x0F), decodeWord_encode (.drw 0 1 5), decodeWord_encode (.skp 5),
    decodeWord_encode (.ldVxMem 2)⟩

end Sys2Proof

/-! # The cycle of a STEP (R46)

One equation for each way a STEP of a loaded machine can go. -/

namespace Sys2Proof.Machine

section
variable {s : State} (hl : s.loaded = true)
include hl

theorem step_of_faulted (hr : s.runState = .faulted) : step s = .next s := by
  simp only [step, hl, hr]

theorem step_of_fetch_fault {f : Fault} (hr : s.runState = .running) (hw : s.fetchWord = .error f) :
    step s = .next (s.takeFault f 0) := by
  simp only [step, hl, hr, hw]

theorem step_of_decode_error {w : Word} {e : DecodeError} (hr : s.runState = .running) (hw : s.fetchWord = .ok w)
    (hd : decodeWord w = .error e) : step s = .next (s.takeFault .unimplementedOpcode w) := by
  simp only [step, hl, hr, hw, hd]

theorem step_of_decode_ok {w : Word} {i : Instr} (hr : s.runState = .running) (hw : s.fetchWord = .ok w)
    (hd : decodeWord w = .ok i) : step s = exec i s := by
  simp only [step, hl, hr, hw, hd]

end

/-! ### Every instruction answers a next state -/

theorem State.commit_answers (s : State) (w : Word) (r : Except Fault State) : ∃ t, s.commit w r = .next t := by
  cases r with
  | ok t => exact ⟨t, rfl⟩
  | error f => exact ⟨s.takeFault f w, rfl⟩

theorem execLdVxK_answers (x : Reg) (s : State) : ∃ t, execLdVxK x s = .next t := by
  unfold execLdVxK
  split
  · exact ⟨_, rfl⟩
  · exact ⟨_, rfl⟩

theorem exec_answers (i : Instr) (s : State) : ∃ t, exec i s = .next t := by
  cases i with
  | ret | call nnn | drw x y n | skp x | sknp x | ldBVx x | ldMemVx x | ldVxMem x => exact s.commit_answers _ _
  | ldVxK x => exact execLdVxK_answers x s
  | _ => exact ⟨_, rfl⟩

/-! ### The obligations on the STEP -/

/-- Settles O7: the way of the cycle in which the fetch answers and the word decodes. -/
theorem stepRunsDecodedInstruction : Obligations.StepRunsDecodedInstruction :=
  fun _ _ _ hl hr hw hd => step_of_decode_ok hl hr hw hd

/-- Settles O9: under FAULT a fetch that reaches 0x1000 answers ADDRESS_RANGE. -/
theorem fetchFaultIsTaken : Obligations.FetchFaultIsTaken := by
  unfold Obligations.FetchFaultIsTaken
  intro s hl hr hp ha
  have hw : s.fetchWord = .error .addressRange := (fetchReadsBigEndianWord s).2 hp ha
  rw [step_of_fetch_fault hl hr hw, State.takeFault_eq]

/-- Settles O10: the way of the cycle in which the fetch answers and the word does not decode. -/
theorem unimplementedWordFaults : Obligations.UnimplementedWordFaults := by
  unfold Obligations.UnimplementedWordFaults
  intro s w hl hr hw hd
  rw [step_of_decode_error hl hr hw hd, State.takeFault_eq]

/-- Settles O13: each way a STEP of a loaded machine can go answers a next state. -/
theorem loadedStepAlwaysAnswers : Obligations.LoadedStepAlwaysAnswers := by
  unfold Obligations.LoadedStepAlwaysAnswers
  intro s hl
  cases hr : s.runState with
  | faulted => exact ⟨_, step_of_faulted hl hr⟩
  | running =>
    cases hw : s.fetchWord with
    | error f => exact ⟨_, step_of_fetch_fault hl hr hw⟩
    | ok w =>
      cases hd : decodeWord w with
      | error e => exact ⟨_, step_of_decode_error hl hr hw hd⟩
      | ok i =>
        rw [step_of_decode_ok hl hr hw hd]
        exact exec_answers i s

end Sys2Proof.Machine

/-! # Family 0 and the call stack (40_system.md, R59, R61)

One equation for each answer of RET and CALL: the slot popped or pushed, or the stack fault. -/

namespace Sys2Proof.Machine

/-! ### RET and CALL -/

theorem exec_ret_of_sp_pos {s : State} (h : 0 < s.sp.val) : exec .ret s = .next { s with
    sp := ⟨s.sp.val - 1, by omega⟩, pc := s.stack[s.sp.val - 1]'(by omega) } := by
  change s.commit (encode .ret) s.advance.popPc = _
  rw [State.popPc_eq, dif_pos (show 0 < s.advance.sp.val from h)]
  rfl

theorem exec_ret_of_sp_eq_zero {s : State} (h : s.sp.val = 0) :
    exec .ret s = .next (s.takeFault .stackUnderflow (encode .ret)) := by
  change s.commit (encode .ret) s.advance.popPc = _
  rw [State.popPc_eq, dif_neg (show ¬ 0 < s.advance.sp.val from h.not_gt)]
  rfl

theorem exec_call_of_sp_lt {s : State} (nnn : Addr12) (h : s.sp.val < 16) : exec (.call nnn) s = .next { s with
    stack := s.stack.set s.sp.val (s.pc + 2), sp := ⟨s.sp.val + 1, by omega⟩, pc := nnn.setWidth 16 } := by
  change s.commit (encode (.call nnn)) (s.advance.pushPc.map fun t => t.setPc (zextAddr nnn)) = _
  rw [State.pushPc_eq, dif_pos (show s.advance.sp.val < 16 from h)]
  rfl

/-! ### The blank screen -/

@[simp] theorem pixel_blankFb (px : Fin 64) (py : Fin 32) : FrameBuffer.pixel blankFb px py = false := by
  simp [FrameBuffer.pixel, Vector.get_eq_getElem]

/-! ### The obligations -/

/-- Settles O28: the slot that CALL pushed is the one that RET pops. -/
theorem retUndoesCall : Obligations.RetUndoesCall := by
  unfold Obligations.RetUndoesCall
  intro nnn s t u hsp hcall
  rw [exec_call_of_sp_lt nnn hsp] at hcall
  cases hcall
  rw [exec_ret_of_sp_pos (Nat.succ_pos s.sp.val)]
  simp only [Nat.add_sub_cancel, Vector.getElem_set_self]

/-- Settles O23: NOP's whole work is the advance of the fetch. -/
theorem nopOnlyMovesPc : Obligations.NopOnlyMovesPc :=
  ⟨decodeWord_encode .nop, fun _ => rfl⟩

/-- Settles O24: the frame buffer that CLS leaves is the blank one. -/
theorem clsClearsEveryPixel : Obligations.ClsClearsEveryPixel :=
  ⟨decodeWord_encode .cls, fun _ => ⟨blankFb, rfl, pixel_blankFb⟩⟩

/-- Settles O25: the two answers of the pop. -/
theorem retPopsReturnAddress : Obligations.RetPopsReturnAddress := by
  unfold Obligations.RetPopsReturnAddress
  refine ⟨decodeWord_encode .ret, fun s hpos => ?_, fun s hzero => ?_⟩
  · exact exec_ret_of_sp_pos hpos
  · exact exec_ret_of_sp_eq_zero hzero

end Sys2Proof.Machine

/-! # Families 1 and 2: JP and CALL (41_jump_call.md)

The word with a 12-bit address operand, and CALL's remaining answer: the push on a full stack. -/

namespace Sys2Proof.Machine

/-! ### The word with an address operand -/

theorem formAddr_eq_addrWord (op : BitVec 4) (nnn : Addr12) : formAddr op nnn = addrWord op.toNat nnn := by
  apply BitVec.eq_of_toNat_eq
  rw [formAddr_toNat, BitVec.toNat_ofNat]
  omega

/-! ### CALL on a full stack -/

theorem exec_call_of_sp_eq_sixteen {s : State} (nnn : Addr12) (h : s.sp.val = 16) :
    exec (.call nnn) s = .next (s.takeFault .stackOverflow (encode (.call nnn))) := by
  change s.commit (encode (.call nnn)) (s.advance.pushPc.map fun t => t.setPc (zextAddr nnn)) = _
  rw [State.pushPc_eq, dif_neg (show ¬ s.advance.sp.val < 16 from h.not_lt)]
  rfl

/-! ### The obligations -/

/-- Settles O26: the jump overwrites the PC that the fetch advanced. -/
theorem jpSetsPc : Obligations.JpSetsPc :=
  fun nnn => ⟨decodeWord_eq_ok_iff.mpr (formAddr_eq_addrWord 0x1 nnn), fun _ => rfl⟩

/-- Settles O27: the two answers of the push. -/
theorem callPushesReturnAddress : Obligations.CallPushesReturnAddress := by
  unfold Obligations.CallPushesReturnAddress
  refine fun nnn => ⟨decodeWord_eq_ok_iff.mpr (formAddr_eq_addrWord 0x2 nnn), fun s hroom => ?_, fun s hfull => ?_⟩
  · exact exec_call_of_sp_lt nnn hroom
  · exact exec_call_of_sp_eq_sixteen nnn hfull

end Sys2Proof.Machine

/-! # Families 3, 4, 5 and 9: the conditional skips (42_skip.md)

The words with a byte and with two register operands, and where PC ends after a skip on equal or unequal bytes. -/

namespace Sys2Proof.Machine

/-! ### The words with a byte operand and with two register operands -/

theorem formXnn_eq_xnnWord (op : BitVec 4) (x : Reg) (nn : Byte) : formXnn op x nn = xnnWord op.toNat x nn := by
  apply BitVec.eq_of_toNat_eq
  rw [formXnn_toNat, BitVec.toNat_ofNat]
  omega

theorem formXyn_eq_xynWord (op : BitVec 4) (x y : Reg) (n : Fin 16) :
    formXyn op x y (nibble n) = xynWord op.toNat x y n := by
  apply BitVec.eq_of_toNat_eq
  rw [formXyn_toNat, nibble_toNat, BitVec.toNat_ofNat]
  omega

/-! ### PC after a skip, taken or not -/

theorem State.skipIf_advance (s : State) (c : Bool) :
    s.advance.skipIf c = { s with pc := if c = true then s.pc + 4 else s.pc + 2 } := by
  cases c with
  | false => rfl
  | true => exact s.skipIf_advance_true

theorem State.skipIf_advance_beq (s : State) (a b : Byte) :
    s.advance.skipIf (a == b) = { s with pc := if a = b then s.pc + 4 else s.pc + 2 } := by
  simp only [State.skipIf_advance, beq_iff_eq]

theorem State.skipIf_advance_bne (s : State) (a b : Byte) :
    s.advance.skipIf (a != b) = { s with pc := if a = b then s.pc + 2 else s.pc + 4 } := by
  simp only [State.skipIf_advance, bne_iff_ne, ite_not]

/-! ### The obligations -/

/-- Settles O29: SE skips on equal bytes and SNE on unequal ones, here V[x] and NN. -/
theorem byteSkipsMoveOnlyPc : Obligations.ByteSkipsMoveOnlyPc := by
  unfold Obligations.ByteSkipsMoveOnlyPc
  refine fun x nn => ⟨decodeWord_eq_ok_iff.mpr (formXnn_eq_xnnWord 0x3 x nn),
    decodeWord_eq_ok_iff.mpr (formXnn_eq_xnnWord 0x4 x nn), fun s => ⟨?_, ?_⟩⟩
  · exact congrArg Host.Outcome.next (s.skipIf_advance_beq (s.reg x) nn)
  · exact congrArg Host.Outcome.next (s.skipIf_advance_bne (s.reg x) nn)

/-- Settles O30: SE skips on equal bytes and SNE on unequal ones, here V[x] and V[y]. -/
theorem registerSkipsMoveOnlyPc : Obligations.RegisterSkipsMoveOnlyPc := by
  unfold Obligations.RegisterSkipsMoveOnlyPc
  refine fun x y => ⟨decodeWord_eq_ok_iff.mpr (formXyn_eq_xynWord 0x5 x y 0),
    decodeWord_eq_ok_iff.mpr (formXyn_eq_xynWord 0x9 x y 0), fun s => ⟨?_, ?_⟩⟩
  · exact congrArg Host.Outcome.next (s.skipIf_advance_beq (s.reg x) (s.reg y))
  · exact congrArg Host.Outcome.next (s.skipIf_advance_bne (s.reg x) (s.reg y))

end Sys2Proof.Machine

/-! # Families 6 and 7: load and add immediate (43_immediate.md)

The rule for an instruction whose whole work is one register write, and the 8-bit sum read as a number. -/

namespace Sys2Proof.Machine

/-! ### An instruction that writes one register -/

theorem writesRegs_of_exec_eq_setReg {i : Instr} {s : State} {x : Reg} {b : Byte}
    (h : exec i s = .next (s.advance.setReg x b)) :
    WritesRegs i s (fun r => if r = x then b else s.reg r) :=
  ⟨s.v.set x.val b, h, State.get_set s.v x b⟩

/-! ### The sum modulo 256 -/

theorem ofNat_toNat_add_mod (a b : Byte) : BitVec.ofNat 8 ((a.toNat + b.toNat) % 256) = a + b := by
  apply BitVec.eq_of_toNat_eq
  rw [BitVec.toNat_ofNat, BitVec.toNat_add, Nat.mod_mod]

/-! ### The obligations -/

/-- Settles O31: each instruction's whole work is one write of V[x], of NN or of the 8-bit sum. -/
theorem immediatesWriteOnlyVx : Obligations.ImmediatesWriteOnlyVx := by
  unfold Obligations.ImmediatesWriteOnlyVx
  refine fun x nn => ⟨decodeWord_eq_ok_iff.mpr (formXnn_eq_xnnWord 0x6 x nn),
    decodeWord_eq_ok_iff.mpr (formXnn_eq_xnnWord 0x7 x nn), fun s => ⟨?_, ?_⟩⟩
  · exact writesRegs_of_exec_eq_setReg rfl
  · rw [ofNat_toNat_add_mod]
    exact writesRegs_of_exec_eq_setReg rfl

end Sys2Proof.Machine

/-! # Family 8: the ALU (44_alu.md)

The registers after a result and a flag written in either order, and the flags, the difference and the shifts read as
numbers. -/

namespace Sys2Proof.Machine

/-! ### An instruction that writes a result and a flag (R69) -/

theorem writesRegs_of_exec_eq_resultThenFlag {i : Instr} {s : State} {x : Reg} {b : Byte} {c : Bool}
    (h : exec i s = .next (s.advance.resultThenFlag x b c)) :
    WritesRegs i s (fun r => if r = vf then flagByte c else if r = x then b else s.reg r) := by
  obtain ⟨vs, heq, hget⟩ := s.advance.resultThenFlag_eq x b c
  rw [heq] at h
  exact ⟨vs, h, hget⟩

theorem writesRegs_of_exec_eq_shiftWrite {i : Instr} {s : State} {x : Reg} {b : Byte} {c : Bool}
    (h : exec i s = .next (s.advance.shiftWrite x b c)) :
    WritesRegs i s (fun r =>
      if r = x then if x = vf ∧ s.params.shiftVfOrder = .resultThenFlag then flagByte c else b
      else if r = vf then flagByte c else s.reg r) := by
  obtain ⟨vs, heq, hget⟩ := s.advance.shiftWrite_eq x b c
  rw [heq] at h
  refine ⟨vs, h, fun r => (hget r).trans ?_⟩
  rw [State.advance_params]
  by_cases hrx : r = x
  · subst hrx
    cases s.params.shiftVfOrder <;> simp
  · simp only [hrx, false_and, if_false]
    rfl

/-! ### The flags as numbers -/

theorem flagByte_carry (a b : Byte) : flagByte (carry a b) = if a.toNat + b.toNat > 255 then 1 else 0 := by
  simp only [flagByte, carry, decide_eq_true_eq]

theorem flagByte_noBorrow (a b : Byte) : flagByte (noBorrow a b) = if a.toNat ≥ b.toNat then 1 else 0 := by
  simp only [flagByte, noBorrow, decide_eq_true_eq]

theorem flagByte_getLsbD (a : Byte) (k : Nat) : flagByte (a.getLsbD k) = BitVec.ofNat 8 (a.toNat / 2 ^ k % 2) := by
  have hbit : a.getLsbD k = decide (a.toNat / 2 ^ k % 2 = 1) := Nat.testBit_eq_decide_div_mod_eq
  rw [hbit]
  obtain h | h := Nat.mod_two_eq_zero_or_one (a.toNat / 2 ^ k)
  · rw [h]; rfl
  · rw [h]; rfl

theorem flagByte_lowBit (a : Byte) : flagByte (lowBit a) = BitVec.ofNat 8 (a.toNat % 2) := by
  rw [lowBit, flagByte_getLsbD, Nat.pow_zero, Nat.div_one]

theorem flagByte_highBit (a : Byte) : flagByte (highBit a) = BitVec.ofNat 8 (a.toNat / 128) := by
  have htop : a.toNat / 2 ^ 7 % 2 = a.toNat / 128 := by omega
  rw [highBit, flagByte_getLsbD, htop]

/-! ### The difference and the shifts as numbers -/

theorem ofInt_toNat_sub (a b : Byte) : BitVec.ofInt 8 ((a.toNat : Int) - b.toNat) = a - b := by
  apply BitVec.eq_of_toNat_eq
  rw [BitVec.toNat_ofInt, BitVec.toNat_sub]
  omega

theorem ofNat_toNat_div_two (a : Byte) : BitVec.ofNat 8 (a.toNat / 2) = a >>> 1 := by
  apply BitVec.eq_of_toNat_eq
  rw [BitVec.toNat_ofNat, BitVec.toNat_ushiftRight, Nat.shiftRight_eq_div_pow]
  omega

theorem ofNat_toNat_mul_two_mod (a : Byte) : BitVec.ofNat 8 (a.toNat * 2 % 256) = a <<< 1 := by
  apply BitVec.eq_of_toNat_eq
  rw [BitVec.toNat_ofNat, BitVec.toNat_shiftLeft, Nat.shiftLeft_eq, Nat.pow_one, Nat.mod_mod]

/-! ### The obligations -/

/-- Settles O32: each instruction's whole work is one write of V[x]. -/
theorem moveAndLogicWriteOnlyVx : Obligations.MoveAndLogicWriteOnlyVx := by
  unfold Obligations.MoveAndLogicWriteOnlyVx
  refine fun x y => ⟨decodeWord_eq_ok_iff.mpr (formXyn_eq_xynWord 0x8 x y 0),
    decodeWord_eq_ok_iff.mpr (formXyn_eq_xynWord 0x8 x y 1), decodeWord_eq_ok_iff.mpr (formXyn_eq_xynWord 0x8 x y 2),
    decodeWord_eq_ok_iff.mpr (formXyn_eq_xynWord 0x8 x y 3), fun s => ⟨?_, ?_, ?_, ?_⟩⟩
  · exact writesRegs_of_exec_eq_setReg rfl
  · exact writesRegs_of_exec_eq_setReg rfl
  · exact writesRegs_of_exec_eq_setReg rfl
  · exact writesRegs_of_exec_eq_setReg rfl

/-- Settles O33: the 8-bit sum is written to V[x], and then the carry to VF. -/
theorem addWritesSumThenCarry : Obligations.AddWritesSumThenCarry := by
  unfold Obligations.AddWritesSumThenCarry
  refine fun x y => ⟨decodeWord_eq_ok_iff.mpr (formXyn_eq_xynWord 0x8 x y 4), fun s => ?_⟩
  rw [ofNat_toNat_add_mod, ← flagByte_carry]
  exact writesRegs_of_exec_eq_resultThenFlag rfl

/-- Settles O34: the 8-bit difference is written to V[x], and then the absence of a borrow to VF. -/
theorem subWritesDifferenceThenNoBorrow : Obligations.SubWritesDifferenceThenNoBorrow := by
  unfold Obligations.SubWritesDifferenceThenNoBorrow
  refine fun x y => ⟨decodeWord_eq_ok_iff.mpr (formXyn_eq_xynWord 0x8 x y 5), fun s => ?_⟩
  rw [ofInt_toNat_sub, ← flagByte_noBorrow]
  exact writesRegs_of_exec_eq_resultThenFlag rfl

/-- Settles O35: as SUB, with V[y] the minuend and the destination. -/
theorem subnWritesVyThenNoBorrow : Obligations.SubnWritesVyThenNoBorrow := by
  unfold Obligations.SubnWritesVyThenNoBorrow
  refine fun x y => ⟨decodeWord_eq_ok_iff.mpr (formXyn_eq_xynWord 0x8 x y 7), fun s => ?_⟩
  rw [ofInt_toNat_sub, ← flagByte_noBorrow]
  exact writesRegs_of_exec_eq_resultThenFlag rfl

/-- Settles O36: the half and the low bit are written in the order of SHIFT_VF_ORDER. -/
theorem shrShiftsVxAndKeepsLostBit : Obligations.ShrShiftsVxAndKeepsLostBit := by
  unfold Obligations.ShrShiftsVxAndKeepsLostBit
  refine fun x y => ⟨decodeWord_eq_ok_iff.mpr (formXyn_eq_xynWord 0x8 x y 6), fun s => ?_⟩
  rw [ofNat_toNat_div_two, ← flagByte_lowBit]
  exact writesRegs_of_exec_eq_shiftWrite rfl

/-- Settles O37: the double and the high bit are written in the order of SHIFT_VF_ORDER. -/
theorem shlShiftsVxAndKeepsLostBit : Obligations.ShlShiftsVxAndKeepsLostBit := by
  unfold Obligations.ShlShiftsVxAndKeepsLostBit
  refine fun x y => ⟨decodeWord_eq_ok_iff.mpr (formXyn_eq_xynWord 0x8 x y 0xE), fun s => ?_⟩
  rw [ofNat_toNat_mul_two_mod, ← flagByte_highBit]
  exact writesRegs_of_exec_eq_shiftWrite rfl

end Sys2Proof.Machine

/-! # Families A and B: load index and jump with offset (45_index_jump_random.md)

The sum of an 8-bit offset and a 12-bit address fits in 16 bits. -/

namespace Sys2Proof.Machine

/-! ### The unwrapped sum -/

@[simp] theorem zextByte_toNat (b : Byte) : (zextByte b).toNat = b.toNat :=
  BitVec.toNat_setWidth_of_le (by decide)

@[simp] theorem zextAddr_toNat (nnn : Addr12) : (zextAddr nnn).toNat = nnn.toNat :=
  BitVec.toNat_setWidth_of_le (by decide)

theorem toNat_byte_add_toNat_addr_le (b : Byte) (nnn : Addr12) : b.toNat + nnn.toNat ≤ 0x10FE :=
  Nat.add_le_add (Nat.le_pred_of_lt b.isLt) (Nat.le_pred_of_lt nnn.isLt)

theorem zextByte_add_zextAddr_toNat (b : Byte) (nnn : Addr12) :
    (zextByte b + zextAddr nnn).toNat = b.toNat + nnn.toNat := by
  have hlt : b.toNat + nnn.toNat < 2 ^ 16 := (toNat_byte_add_toNat_addr_le b nnn).trans_lt (by decide)
  rw [BitVec.toNat_add, zextByte_toNat, zextAddr_toNat, Nat.mod_eq_of_lt hlt]

/-! ### The obligations -/

/-- Settles O38: after the fetch, the one write is that of I. -/
theorem ldISetsIndex : Obligations.LdISetsIndex :=
  fun nnn => ⟨decodeWord_eq_ok_iff.mpr (formAddr_eq_addrWord 0xA nnn), fun _ => rfl⟩

/-- Settles O39: the jump overwrites the PC that the fetch advanced, with a sum that does not wrap. -/
theorem jpV0SetsPcToUnwrappedSum : Obligations.JpV0SetsPcToUnwrappedSum := by
  unfold Obligations.JpV0SetsPcToUnwrappedSum
  refine fun nnn => ⟨decodeWord_eq_ok_iff.mpr (formAddr_eq_addrWord 0xB nnn), fun s =>
    ⟨zextByte (s.reg 0) + zextAddr nnn, rfl, zextByte_add_zextAddr_toNat (s.reg 0) nnn, ?_⟩⟩
  rw [zextByte_add_zextAddr_toNat]
  exact toNat_byte_add_toNat_addr_le (s.reg 0) nnn

end Sys2Proof.Machine

/-! # Family D: the sprite (46_draw.md)

DRW toggles the points under the set bits of its sprite, each once; both obligations are read off what that does to a
pixel and to the collision. -/

namespace Sys2Proof.Machine

/-! ### The sprite at I and the points it lies on (R84, R85) -/

/-- The `n` sprite bytes at I. -/
def State.spriteRows (s : State) (n : Nat) : List Byte :=
  (List.range n).map fun r => s.cell (reach (s.dataBase + r))

/-- The points DRW toggles: those under the set bits of the `n` sprite bytes at I, with origin (V[x], V[y]). -/
def State.drwPoints (s : State) (x y : Reg) (n : Nat) : List (Fin 64 × Fin 32) :=
  spritePoints (s.originX x) (s.originY y) 0 (s.spriteRows n)

/-- The frame buffer and the collision after DRW. -/
def State.drwCanvas (s : State) (x y : Reg) (n : Nat) : Canvas :=
  drawSprite s.fb (s.originX x) (s.originY y) (s.spriteRows n)

theorem exec_drw_of_accessOk {s : State} (x y : Reg) {n : Fin 16}
    (h : accessOk s.params.oorPolicy s.index.toNat n.val) :
    exec (.drw x y n) s = .next (s.advance.setCanvas (s.drwCanvas x y n.val)) := by
  change s.commit (encode (.drw x y n)) ((s.readBlock s.index.toNat n.val).map _) = _
  rw [State.readBlock_eq, if_pos h]
  rfl

theorem eq_setCanvas_of_exec_drw {s t : State} {x y : Reg} {n : Fin 16} (h : exec (.drw x y n) s = .next t)
    (hacc : accessOk s.params.oorPolicy s.index.toNat n.val) :
    t = s.advance.setCanvas (s.drwCanvas x y n.val) :=
  Host.Outcome.next.inj (h.symm.trans (exec_drw_of_accessOk x y hacc))

@[simp] theorem State.spriteRows_length (s : State) (n : Nat) : (s.spriteRows n).length = n := by
  simp [State.spriteRows]

theorem State.spriteRows_getElem (s : State) (n r : Nat) (h : r < (s.spriteRows n).length) :
    (s.spriteRows n)[r] = s.cell ((s.index.toNat + r) % 0x1000) := by
  simp only [State.spriteRows, List.getElem_map, List.getElem_range]
  rfl

theorem State.mem_drwPoints {s : State} {x y : Reg} {n : Nat} {px : Fin 64} {py : Fin 32} :
    (px, py) ∈ s.drwPoints x y n ↔
      ∃ r c, r < n ∧ c < 8 ∧ (s.cell ((s.index.toNat + r) % 0x1000)).getLsbD (7 - c) = true ∧
        px.val = ((s.reg x).toNat + c) % 64 ∧ py.val = ((s.reg y).toNat + r) % 32 := by
  rw [State.drwPoints, mem_spritePoints]
  simp only [State.spriteRows_getElem, exists_prop, State.spriteRows_length, State.originX, State.originY,
    Nat.mod_add_mod, Nat.zero_add]

/-- Every set sprite bit lies over some point. -/
theorem State.exists_mem_drwPoints {s : State} {x y : Reg} {n : Nat} :
    (∃ px py, (px, py) ∈ s.drwPoints x y n) ↔
      ∃ r c, r < n ∧ c < 8 ∧ (s.cell ((s.index.toNat + r) % 0x1000)).getLsbD (7 - c) = true := by
  constructor
  · rintro ⟨px, py, hp⟩
    obtain ⟨r, c, hr, hc, hbit, -, -⟩ := State.mem_drwPoints.mp hp
    exact ⟨r, c, hr, hc, hbit⟩
  · rintro ⟨r, c, hr, hc, hbit⟩
    exact ⟨wrapColumn (s.reg x).toNat c, wrapRow (s.reg y).toNat r,
      State.mem_drwPoints.mpr ⟨r, c, hr, hc, hbit, rfl, rfl⟩⟩

/-! ### The pixels and the collision after DRW -/

section
variable (s : State) (x y : Reg) (n : Fin 16)

theorem State.spriteRows_length_le : (s.spriteRows n.val).length ≤ 32 := by
  rw [State.spriteRows_length]
  omega

theorem State.drwCanvas_pixel (px : Fin 64) (py : Fin 32) :
    (s.drwCanvas x y n.val).fb.pixel px py = (s.fb.pixel px py ^^ decide ((px, py) ∈ s.drwPoints x y n.val)) :=
  (drawSprite_spec s.fb _ _ _ (s.spriteRows_length_le n)).1 px py

theorem State.drwCanvas_pixel_ne_iff (px : Fin 64) (py : Fin 32) :
    (s.drwCanvas x y n.val).fb.pixel px py ≠ s.fb.pixel px py ↔ (px, py) ∈ s.drwPoints x y n.val := by
  rw [State.drwCanvas_pixel]
  by_cases hp : (px, py) ∈ s.drwPoints x y n.val <;> simp [hp]

theorem State.drwCanvas_coll_iff :
    (s.drwCanvas x y n.val).coll = true ↔
      ∃ px py, (px, py) ∈ s.drwPoints x y n.val ∧ s.fb.pixel px py = true := by
  have hcoll := (drawSprite_spec s.fb (s.originX x) (s.originY y) _ (s.spriteRows_length_le n)).2
  rw [State.drwCanvas, hcoll, List.any_eq_true, Prod.exists]
  rfl

/-- A collision is a pixel that the draw turned off (R84). -/
theorem State.drwCanvas_coll_iff_turned_off :
    (s.drwCanvas x y n.val).coll = true ↔
      ∃ px py, s.fb.pixel px py = true ∧ (s.drwCanvas x y n.val).fb.pixel px py = false := by
  rw [State.drwCanvas_coll_iff]
  refine exists_congr fun px => exists_congr fun py => ?_
  rw [← State.drwCanvas_pixel_ne_iff, and_comm]
  refine and_congr_right fun hon => ?_
  rw [hon, ne_eq, Bool.not_eq_true]

end

/-! ### The same sprite drawn again (R86) -/

section
variable {s t : State} {x y : Reg} {n : Fin 16}
  (hpoints : t.drwPoints x y n.val = s.drwPoints x y n.val) (hfb : t.fb = (s.drwCanvas x y n.val).fb)
include hpoints hfb

theorem State.drwCanvas_fb_of_redraw : (t.drwCanvas x y n.val).fb = s.fb :=
  FrameBuffer.ext_pixel _ _ fun px py => by
    rw [State.drwCanvas_pixel, hpoints, hfb, State.drwCanvas_pixel, Bool.xor_assoc, Bool.xor_self, Bool.xor_false]

theorem State.drwCanvas_coll_iff_of_redraw (hblank : ∀ px py, s.fb.pixel px py = false) :
    (t.drwCanvas x y n.val).coll = true ↔
      ∃ r c, r < n.val ∧ c < 8 ∧ (s.cell ((s.index.toNat + r) % 0x1000)).getLsbD (7 - c) = true := by
  have hon (px : Fin 64) (py : Fin 32) : t.fb.pixel px py = true ↔ (px, py) ∈ s.drwPoints x y n.val := by
    rw [hfb, State.drwCanvas_pixel, hblank, Bool.false_xor, decide_eq_true_eq]
  simp only [State.drwCanvas_coll_iff, hpoints, hon, and_self, State.exists_mem_drwPoints]

end

/-! ### The obligations -/

/-- Settles O41: the pixels that differ are those of the toggled points, and only VF is written besides. -/
theorem drwTogglesSpritePixels : Obligations.DrwTogglesSpritePixels := by
  unfold Obligations.DrwTogglesSpritePixels
  refine fun x y n => ⟨decodeWord_eq_ok_iff.mpr (formXyn_eq_xynWord 0xD x y n), fun s hacc =>
    ⟨s.v.set vf (flagByte (s.drwCanvas x y n.val).coll), (s.drwCanvas x y n.val).fb,
      exec_drw_of_accessOk x y hacc, fun px py => ?_, fun r hr => ?_, ?_⟩⟩
  · rw [State.drwCanvas_pixel_ne_iff, State.mem_drwPoints]
  · rw [State.get_set, if_neg hr]
    rfl
  · rw [State.get_set, if_pos rfl]
    exact if_congr (s.drwCanvas_coll_iff_turned_off x y n) rfl rfl

/-- Settles O42: the second draw toggles the points of the first, which on a blank screen are the ones then on. -/
theorem drawingTwiceRestoresFrameBuffer : Obligations.DrawingTwiceRestoresFrameBuffer := by
  unfold Obligations.DrawingTwiceRestoresFrameBuffer
  intro x y n s t u hacc ht hu
  obtain rfl := eq_setCanvas_of_exec_drw ht hacc
  obtain rfl := eq_setCanvas_of_exec_drw hu hacc
  refine ⟨State.drwCanvas_fb_of_redraw rfl rfl, fun hblank => ?_⟩
  have hcoll := State.drwCanvas_coll_iff_of_redraw (s := s) (x := x) (y := y) (n := n)
    (t := { s.advance.setCanvas (s.drwCanvas x y n.val) with v := s.v }) rfl rfl hblank
  rw [State.setCanvas, State.reg_setReg, if_pos rfl]
  refine ⟨fun hset => if_pos (hcoll.mpr hset), fun hclear => if_neg fun hc => ?_⟩
  obtain ⟨r, c, hr, h8, hbit⟩ := hcoll.mp hc
  exact Bool.false_ne_true ((hclear r c hr h8).symm.trans hbit)

end Sys2Proof.Machine

/-! # The keypad: the key skips and the key wait (47_keypad.md)

The key index in one equation, and the answers of a check that can fault and of the key wait. -/

namespace Sys2Proof.Machine

/-! ### The key a byte names (R87) -/

@[simp] theorem lowNibble_val (v : Byte) : (lowNibble v).val = v.toNat % 16 := by
  simp [lowNibble]

theorem keyIndex_eq (p : KeyIndexPolicy) (v : Byte) :
    keyIndex p v =
      if v.toNat ≤ 15 ∨ p = .maskLowNibble then .ok (lowNibble v) else .error .keyIndexRange := by
  have hle : v ≤ 0xF ↔ v.toNat ≤ 15 := BitVec.le_def
  unfold keyIndex
  by_cases hv : v.toNat ≤ 15
  · rw [if_pos (hle.mpr hv), if_pos (.inl hv)]
  · rw [if_neg (mt hle.mp hv)]
    cases p with
    | fault => exact (if_neg (by simpa using hv)).symm
    | maskLowNibble => exact (if_pos (.inr rfl)).symm

theorem keyIndex_eq_ok_of_names {p : KeyIndexPolicy} {v : Byte} {k : Fin 16}
    (h : k.val = v.toNat ∨ (p = .maskLowNibble ∧ k.val = v.toNat % 16)) : keyIndex p v = .ok k := by
  have hk : lowNibble v = k := Fin.ext (by rw [lowNibble_val]; omega)
  have hnames : v.toNat ≤ 15 ∨ p = .maskLowNibble := h.imp (by omega) And.left
  rw [keyIndex_eq, if_pos hnames, hk]

theorem keyIndex_eq_error_of_gt {v : Byte} (h : 15 < v.toNat) : keyIndex .fault v = .error .keyIndexRange := by
  rw [keyIndex_eq, if_neg (by simpa using h)]

/-! ### The answer after a check that can fault (R102) -/

section
variable {α : Type} {r : Except Fault α} (s : State) (w : Word) (f : α → State)

theorem State.commit_map_of_eq_ok {a : α} (h : r = .ok a) : s.commit w (r.map f) = .next (f a) := by
  rw [h]; rfl

theorem State.commit_map_of_eq_error {e : Fault} (h : r = .error e) :
    s.commit w (r.map f) = .next (s.takeFault e w) := by
  rw [h]; rfl

end

/-! ### PC after a skip on a released key (R89) -/

theorem State.skipIf_advance_not (s : State) (c : Bool) :
    s.advance.skipIf (!c) = { s with pc := if c = true then s.pc + 2 else s.pc + 4 } := by
  cases c with
  | false => exact s.skipIf_advance true
  | true => exact s.skipIf_advance false

/-! ### The answers of the key wait (R90) -/

theorem exec_ldVxK_of_lowestKey_eq_some {s : State} {k : Fin 16} (x : Reg) (h : s.lowestKey = some k) :
    exec (.ldVxK x) s = .next (s.advance.setReg x (byteOfNibble k)) := by
  change execLdVxK x s = _
  rw [execLdVxK, h]

theorem exec_ldVxK_of_lowestKey_eq_none {s : State} (x : Reg) (h : s.lowestKey = none) :
    exec (.ldVxK x) s = .next s := by
  change execLdVxK x s = _
  rw [execLdVxK, h]
  exact congrArg Host.Outcome.next s.retreat_advance

/-! ### The obligations -/

/-- Settles O43: the key index is the key named or the fault, and the skips are read off it. -/
theorem keySkipsTestTheNamedKey : Obligations.KeySkipsTestTheNamedKey := by
  unfold Obligations.KeySkipsTestTheNamedKey
  refine fun x => ⟨decodeWord_eq_ok_iff.mpr (formXnn_eq_xnnWord 0xE x 0x9E),
    decodeWord_eq_ok_iff.mpr (formXnn_eq_xnnWord 0xE x 0xA1), fun s k hk => ?_, fun s hv hp => ?_⟩
  · have hok := keyIndex_eq_ok_of_names hk
    rw [← State.skipIf_advance, ← State.skipIf_advance_not]
    exact ⟨s.commit_map_of_eq_ok _ _ hok, s.commit_map_of_eq_ok _ _ hok⟩
  · have herr : keyIndex s.params.keyIndexPolicy (s.reg x) = .error .keyIndexRange :=
      hp ▸ keyIndex_eq_error_of_gt hv
    exact ⟨s.commit_map_of_eq_error _ _ herr, s.commit_map_of_eq_error _ _ herr⟩

/-- Settles O44: the wait writes the lowest key, and with none pressed its retreat undoes the advance. -/
theorem keyWaitTakesLowestKeyOrStays : Obligations.KeyWaitTakesLowestKeyOrStays := by
  unfold Obligations.KeyWaitTakesLowestKeyOrStays
  refine fun x => ⟨decodeWord_eq_ok_iff.mpr (formXnn_eq_xnnWord 0xF x 0x0A), fun s k hk hlow => ?_, fun s hnone => ?_⟩
  · exact writesRegs_of_exec_eq_setReg
      (exec_ldVxK_of_lowestKey_eq_some x ((s.lowestKey_some k).mpr ⟨hk, hlow⟩))
  · exact exec_ldVxK_of_lowestKey_eq_none x (s.lowestKey_none.mpr hnone)

end Sys2Proof.Machine

/-! # What a host operation does, and the invariant (60_exceptions.md, 70_reset_and_hazards.md)

`hostOp_effect` says once what a host operation that answers does to the state. The invariant is carried over the
effects of an instruction, the ways of a STEP and the effects of a host operation, and so over every schedule. -/

namespace Sys2Proof.Machine

/-! ### The invariant of a RUNNING machine and of a fault taken -/

/-- A RUNNING machine with a cleared fault report has only its memory to keep canonical. -/
theorem State.inv_of_running {s : State} (hr : s.runState = .running) (hmem : s.memoryCanonical)
    (hclear : s.faultKind = none ∧ s.faultWord = 0 ∧ s.faultPc = 0) : s.Inv :=
  ⟨hmem, ⟨fun _ => hclear, by simp [hr]⟩, by simp [State.faultKindAllowed, hclear.1]⟩

/-- Taking a fault that the parameters allow in a loaded machine makes a consistent report (R100). -/
theorem State.inv_takeFault {s : State} {f : Fault} {w : Word} (hmem : s.memoryCanonical) (hl : s.loaded = true)
    (ha : (s.takeFault f w).faultKindAllowed) : (s.takeFault f w).Inv :=
  ⟨hmem, ⟨by simp, fun _ => ⟨by simp, hl, rfl⟩⟩, ha⟩

theorem State.faultKindAllowed_unimplementedOpcode (s : State) (w : Word) :
    (s.takeFault .unimplementedOpcode w).faultKindAllowed := by
  simp [State.faultKindAllowed]

/-- Under OOR_POLICY = MASK no access is refused (R30). -/
theorem oorPolicy_eq_fault_of_not_accessOk {p : OorPolicy} {a n : Nat} (h : ¬ accessOk p a n) : p = .fault := by
  cases p with
  | mask => exact absurd (.inl rfl) h
  | fault => rfl

/-- The fetch faults only under OOR_POLICY = FAULT (R30). -/
theorem State.faultKindAllowed_of_fetchWord_eq_error {s : State} {f : Fault} (h : s.fetchWord = .error f) (w : Word) :
    (s.takeFault f w).faultKindAllowed := by
  rw [State.fetchWord_eq] at h
  split at h
  · cases h
  · next hacc =>
    cases h
    simp [State.faultKindAllowed, oorPolicy_eq_fault_of_not_accessOk hacc]

/-! ### A STEP keeps it -/

/-- An effect on a RUNNING machine writes memory by the memory port, takes a fault, or leaves all that the invariant
speaks of. -/
theorem InstrEffect.inv {i : Instr} {s t : State} (h : InstrEffect i s t) (hl : s.loaded = true)
    (hr : s.runState = .running) (hs : s.Inv) : t.Inv := by
  obtain ⟨hcanonical, ⟨hclear, -⟩, -⟩ := hs
  cases h with
  | memory a bs m _ hw =>
    have hmem := State.writeBlock_memoryCanonical bs s.advance _ a hcanonical hw
    exact State.inv_of_running hr hmem (hclear hr)
  | fault f _ ha => exact State.inv_takeFault hcanonical hl ha
  | _ => exact State.inv_of_running hr hcanonical (hclear hr)

theorem step_inv {s t : State} (h : step s = .next t) (hs : s.Inv) : t.Inv := by
  obtain ⟨hl, ⟨-, rfl⟩ | ⟨-, f, hf, rfl⟩ | ⟨-, w, e, -, -, rfl⟩ | ⟨hr, w, i, -, -, hexec⟩⟩ := step_cases h
  · exact hs
  · exact State.inv_takeFault hs.1 hl (State.faultKindAllowed_of_fetchWord_eq_error hf 0)
  · exact State.inv_takeFault hs.1 hl (s.faultKindAllowed_unimplementedOpcode w)
  · exact (exec_effect hexec).inv hl hr hs

/-! ### The effects of a host operation -/

/-- The effects a host operation can have on a state. -/
inductive HostEffect (s : State) : State → Prop
  /-- RESET (R126). -/
  | reset : HostEffect s s.resetOp
  /-- A LOAD that fits (R117). -/
  | load (bytes : List Byte) (hl : s.loaded = false) (hfits : imageFits bytes) :
      HostEffect s (s.copyImage Config.programBase bytes).setLoaded
  /-- STEP (R46). -/
  | step {t : State} (h : step s = .next t) : HostEffect s t
  /-- TICK (R109). -/
  | tick : HostEffect s s.tick
  /-- SET_KEY (R119). -/
  | setKey (k : Fin 16) (p : Bool) : HostEffect s (s.setKey k p)
  /-- The reads, and a LOAD that does not fit (R117, R120 to R122). -/
  | keep : HostEffect s s

theorem hostOp_effect {op : HostOp} {s t : State} {r : Reply} (h : hostOp op s = .next (t, r)) : HostEffect s t := by
  cases op with
  | reset => cases h; exact .reset
  | load bytes =>
    rw [hostOp] at h
    split at h
    · cases h
    · next hl =>
      split at h
      · next hfits => cases h; exact .load bytes (Bool.eq_false_of_not_eq_true hl) hfits
      · cases h; exact .keep
  | step =>
    rw [hostOp] at h
    split at h
    · next u hu => cases h; exact .step hu
    · cases h
    · cases h
  | tick => cases h; exact .tick
  | setKey k p => cases h; exact .setKey k p
  | readFb | readSt | readFault => cases h; exact .keep

/-! ### A host operation and a schedule keep it -/

/-- RESET leaves an empty list of changed bytes and a cleared fault report. -/
theorem State.inv_resetWith (p : Params) (n : Nat) : (State.resetWith p n).Inv :=
  State.inv_of_running rfl (Memory.wf_nil _) ⟨rfl, rfl, rfl⟩

/-- A machine without a program is RUNNING. -/
theorem State.runState_eq_running_of_not_loaded {s : State} (hs : s.Inv) (hl : s.loaded = false) :
    s.runState = .running := by
  obtain ⟨-, ⟨-, hfaulted⟩, -⟩ := hs
  cases hr : s.runState with
  | running => rfl
  | faulted =>
    obtain ⟨-, hloaded, -⟩ := hfaulted hr
    rw [hloaded] at hl
    cases hl

theorem State.inv_load {s : State} {bytes : List Byte} (hs : s.Inv) (hl : s.loaded = false)
    (hfits : imageFits bytes) : (s.copyImage Config.programBase bytes).setLoaded.Inv := by
  have hr := State.runState_eq_running_of_not_loaded hs hl
  obtain ⟨hmem, ⟨hclear, -⟩, -⟩ := hs
  have hcopied := State.copyImage_memoryCanonical bytes s _ hfits hmem
  obtain ⟨m, heq, -, -⟩ := s.copyImage_eq bytes Config.programBase
  rw [heq] at hcopied ⊢
  exact State.inv_of_running hr hcopied (hclear hr)

theorem HostEffect.inv {s t : State} (h : HostEffect s t) (hs : s.Inv) : t.Inv := by
  cases h with
  | reset => exact State.inv_resetWith s.params s.draws
  | load bytes hl hfits => exact State.inv_load hs hl hfits
  | step h => exact step_inv h hs
  | tick | setKey | keep => exact hs

/-- What every host operation keeps, every schedule keeps. -/
theorem runOps_keeps {P : State → Prop}
    (hop : ∀ (op : HostOp) (s t : State) (r : Reply), hostOp op s = .next (t, r) → P s → P t) :
    ∀ (ops : List HostOp) (s t : State), runOps ops s = .next t → P s → P t := by
  intro ops
  induction ops with
  | nil => intro s t h hs; cases h; exact hs
  | cons op ops ih =>
    intro s t h hs
    rw [runOps] at h
    split at h
    · next u r hu => exact ih u t h (hop op s u r hu hs)
    · cases h
    · cases h

/-! ### The parameters -/

theorem step_params {s t : State} (h : step s = .next t) : t.params = s.params := by
  obtain ⟨-, ⟨-, rfl⟩ | ⟨-, f, -, rfl⟩ | ⟨-, w, e, -, -, rfl⟩ | ⟨-, w, i, -, -, hexec⟩⟩ := step_cases h
  · rfl
  · rfl
  · rfl
  · obtain ⟨-, -, hparams⟩ := (exec_effect hexec).keys_loaded_params
    exact hparams

theorem HostEffect.params {s t : State} (h : HostEffect s t) : t.params = s.params := by
  cases h with
  | load bytes _ _ =>
    obtain ⟨m, heq, -, -⟩ := s.copyImage_eq bytes Config.programBase
    rw [heq]; rfl
  | step h => exact step_params h
  | reset | tick | setKey | keep => rfl

/-! ### A STEP that faults (R100, R102) -/

/-- A change of RUN_STATE by an instruction is a fault taken, with the instruction's own word. -/
theorem InstrEffect.eq_takeFault_of_runState_ne {i : Instr} {s t : State} (h : InstrEffect i s t)
    (hne : t.runState ≠ s.runState) : ∃ f, t = s.takeFault f (encode i) := by
  cases h with
  | fault f _ _ => exact ⟨f, rfl⟩
  | _ => exact absurd rfl hne

/-! ### The obligations -/

/-- Settles O19: over the ways of a STEP, the last by the effect of the instruction. -/
theorem stepKeepsInvariant : Obligations.StepKeepsInvariant :=
  fun _ _ hs h => step_inv h hs

/-- Settles O20: over the effects of a host operation. -/
theorem hostOperationsKeepInvariant : Obligations.HostOperationsKeepInvariant :=
  fun _ _ _ _ hs h => (hostOp_effect h).inv hs

/-- Settles O22: RESET with any parameters and draw counter, the fresh machine's among them. -/
theorem resetMeetsInvariant : Obligations.ResetMeetsInvariant :=
  ⟨State.inv_resetWith defaultParams 0, State.inv_resetWith⟩

/-- Settles O21: the reset state has the invariant, and each operation of the schedule keeps it. -/
theorem reachableStatesKeepInvariant : Obligations.ReachableStatesKeepInvariant := by
  unfold Obligations.ReachableStatesKeepInvariant
  rintro p s ⟨ops, hrun⟩
  exact runOps_keeps (fun _ _ _ _ h hs => (hostOp_effect h).inv hs) ops _ s hrun (State.inv_resetWith p 0)

/-- Settles O18: no effect of a host operation writes the parameters. -/
theorem parametersNeverChange : Obligations.ParametersNeverChange :=
  fun _ _ _ _ h => (hostOp_effect h).params

/-- Settles O14: the fault is the fetch's, the decoder's, or the one effect of an instruction that changes RUN_STATE. -/
theorem faultingStepCommitsNothing : Obligations.FaultingStepCommitsNothing := by
  unfold Obligations.FaultingStepCommitsNothing
  intro s t hr hstep hfaulted
  have hne : t.runState ≠ s.runState := by simp [hr, hfaulted]
  obtain ⟨-, ⟨-, rfl⟩ | ⟨-, f, hf, rfl⟩ | ⟨-, w, e, hw, -, rfl⟩ | ⟨-, w, i, hw, hd, hexec⟩⟩ := step_cases hstep
  · exact absurd rfl hne
  · exact ⟨f, rfl, by rw [hf]; exact ⟨rfl, rfl⟩⟩
  · exact ⟨.unimplementedOpcode, rfl, by rw [hw]; rfl⟩
  · obtain ⟨f, rfl⟩ := (exec_effect hexec).eq_takeFault_of_runState_ne hne
    exact ⟨f, rfl, by rw [hw]; exact encode_of_decodeWord hd⟩

/-- Settles O11: a consistent FAULTED machine is loaded, so the STEP idles. -/
theorem faultedStepHasNoEffect : Obligations.FaultedStepHasNoEffect := by
  unfold Obligations.FaultedStepHasNoEffect
  rintro s ⟨-, hfaulted⟩ hr
  obtain ⟨-, hloaded, -⟩ := hfaulted hr
  exact step_of_faulted hloaded hr

end Sys2Proof.Machine

/-! # The host operations one by one (60_exceptions.md, 70_reset_and_hazards.md)

What TICK, SET_KEY, LOAD, RESET and the reads answer, and the two moves that the host's duties leave out. -/

namespace Sys2Proof.Machine

/-! ### LOAD and the host's duties (R117, R118) -/

theorem step_of_not_loaded {s : State} (hl : s.loaded = false) : step s = .refused .stepBeforeLoad := by
  simp only [step, hl]

theorem hostOp_load_of_loaded {s : State} (bytes : List Byte) (hl : s.loaded = true) :
    hostOp (.load bytes) s = .refused .loadWithoutReset :=
  if_pos hl

theorem hostOp_load_of_fits {s : State} {bytes : List Byte} (hl : s.loaded = false) (hfits : imageFits bytes) :
    hostOp (.load bytes) s = .next ((s.copyImage Config.programBase bytes).setLoaded, .loadOk) := by
  rw [hostOp, if_neg (by simp [hl]), if_pos hfits]

theorem hostOp_load_of_not_fits {s : State} {bytes : List Byte} (hl : s.loaded = false) (hbig : ¬ imageFits bytes) :
    hostOp (.load bytes) s = .next (s, .loadOverflow) := by
  rw [hostOp, if_neg (by simp [hl]), if_neg hbig]

/-- The image area is the 3584 bytes from 0x200 up. -/
theorem imageFits_iff (bytes : List Byte) : imageFits bytes ↔ bytes.length ≤ 3584 := by
  unfold imageFits Config.programBase Config.memSize
  omega

/-! ### TICK, SET_KEY and RESET (R109, R110, R119, R126) -/

theorem State.soundStop_iff (s : State) : s.soundStop = true ↔ s.st.toNat = 1 := by
  rw [State.soundStop, beq_iff_eq, ← BitVec.toNat_inj]
  rfl

theorem State.key_setKey (s : State) (k : Fin 16) (p : Bool) (j : Fin 16) :
    (s.setKey k p).key j = if j = k then p else s.key j := by
  simp only [State.key, State.setKey_keys, Vector.get_eq_getElem, Vector.getElem_set, Fin.ext_iff, eq_comm]

theorem State.cell_resetWith (p : Params) (n a : Nat) :
    (State.resetWith p n).cell a = resetByte p.font a := rfl

theorem State.reg_resetWith (p : Params) (n : Nat) (x : Reg) : (State.resetWith p n).reg x = 0 := by
  simp [State.reg, State.resetWith, Vector.get_eq_getElem]

theorem State.key_resetWith (p : Params) (n : Nat) (k : Fin 16) : (State.resetWith p n).key k = false := by
  simp [State.key, State.resetWith, Vector.get_eq_getElem]

/-! ### The reads (R120, R122) -/

theorem State.readFb_length (s : State) : s.readFb.length = 2048 := by
  simp [State.readFb]

theorem State.readFb_getElem? (s : State) (px : Fin 64) (py : Fin 32) :
    s.readFb[px.val + 64 * py.val]? = some (s.fb.pixel px py) := by
  have hlt : px.val + 64 * py.val < 2048 := by omega
  have hcol : (px.val + 64 * py.val) % 64 = px.val := by omega
  have hrow : (px.val + 64 * py.val) / 64 % 32 = py.val := by omega
  simp only [State.readFb, List.getElem?_map, List.getElem?_range hlt, Option.map_some, hcol, hrow]

/-! ### The obligations -/

/-- Settles O53: by induction on the number of TICKs, the first taking each timer down by one. -/
theorem timerAfterTicks : Obligations.TimerAfterTicks := by
  unfold Obligations.TimerAfterTicks
  intro k
  induction k with
  | zero => exact fun s => ⟨s, rfl, rfl, rfl, rfl⟩
  | succ k ih =>
    intro s
    obtain ⟨t, hrun, hdt, hst, hrest⟩ := ih s.tick
    refine ⟨t, hrun, ?_, ?_, hrest⟩
    · rw [hdt, State.tick_dt, timerDown_toNat]; omega
    · rw [hst, State.tick_st, timerDown_toNat]; omega

/-- Settles O56: the image is copied into its own cells when it fits, and the LOAD refused whole when not. -/
theorem loadCopiesImageOrRefusesWhole : Obligations.LoadCopiesImageOrRefusesWhole := by
  unfold Obligations.LoadCopiesImageOrRefusesWhole
  refine fun s bytes hl => ⟨fun hlen => ?_, fun hlen => ?_⟩
  · obtain ⟨m, heq, himage, hrest⟩ := s.copyImage_eq bytes Config.programBase
    refine ⟨m, ?_, himage, hrest⟩
    rw [hostOp_load_of_fits hl ((imageFits_iff bytes).mpr hlen), heq]
    rfl
  · exact hostOp_load_of_not_fits hl (mt (imageFits_iff bytes).mp hlen.not_ge)

/-- Settles O12: the two refusals. -/
theorem hostDutiesHaveNoMove : Obligations.HostDutiesHaveNoMove :=
  fun _ => ⟨step_of_not_loaded, fun hl bytes => hostOp_load_of_loaded bytes hl⟩

/-- Settles O52: both timers go down, and the sound stops from ST = 1. -/
theorem tickDecrementsTimers : Obligations.TickDecrementsTimers :=
  fun s => ⟨timerDown s.dt, timerDown s.st, s.soundStop, rfl, timerDown_toNat s.dt, timerDown_toNat s.st,
    s.soundStop_iff⟩

/-- Settles O57: the one write is that of KEY[k]. -/
theorem setKeyWritesOneKey : Obligations.SetKeyWritesOneKey :=
  fun s k p => ⟨s.keys.set k p, rfl, s.key_setKey k p⟩

/-- Settles O58: the frame in row-major order, and the code of each fault kind. -/
theorem hostReadsChangeNothing : Obligations.HostReadsChangeNothing := by
  unfold Obligations.HostReadsChangeNothing
  refine fun s => ⟨s.readFb, rfl, s.readFb_length, s.readFb_getElem?, rfl, rfl, ?_⟩
  unfold State.faultCode
  cases s.faultKind with
  | none => rfl
  | some f => cases f <;> rfl

/-- Settles O54: memory has no changed bytes, so it reads as the font and zeros; the rest is written out. -/
theorem resetSetsEveryField : Obligations.ResetSetsEveryField := by
  unfold Obligations.ResetSetsEveryField
  refine fun s => ⟨s.resetOp, rfl, fun a ha => ?_, fun a ha => ?_, State.reg_resetWith _ _, rfl, rfl, rfl, fun j => ?_,
    rfl, rfl, pixel_blankFb, State.key_resetWith _ _, rfl, rfl, rfl, rfl, rfl, rfl, rfl⟩
  · exact (State.cell_resetWith s.params s.draws a).trans (dif_pos ha)
  · exact (State.cell_resetWith s.params s.draws a).trans (dif_neg ha.not_gt)
  · simp [State.resetOp, State.resetWith, Vector.get_eq_getElem]

/-- Settles O55: RESET keeps the default parameters and the draw counter 0. -/
theorem resetOfFreshMachineIsItself : Obligations.ResetOfFreshMachineIsItself :=
  ⟨rfl, rfl, rfl⟩

end Sys2Proof.Machine

/-! # The timer instructions, I and memory, and RND (45_index_jump_random.md, 48_timer_instr.md, 49_index_memory.md)

The address arithmetic of FX1E and FX29 and the decimal digits as numbers, and a block store and a block load that
the memory port allows. -/

namespace Sys2Proof.Machine

/-! ### The new value of I (R94, R95) -/

theorem ofNat_toNat_add_zextByte (a : Word) (b : Byte) :
    BitVec.ofNat 16 ((a.toNat + b.toNat) % 0x10000) = a + zextByte b := by
  apply BitVec.eq_of_toNat_eq
  rw [BitVec.toNat_ofNat, BitVec.toNat_add, zextByte_toNat, Nat.mod_mod]

/-- Five times a byte fits in 16 bits. -/
theorem zextByte_mul_five_toNat (b : Byte) : (zextByte b * 5).toNat = b.toNat * 5 := by
  have hfive : (5 : Word).toNat = 5 := rfl
  rw [BitVec.toNat_mul, zextByte_toNat, hfive]
  omega

theorem and_lowNibbleMask_toNat (b : Byte) : (b &&& 0xF).toNat = b.toNat % 16 :=
  (BitVec.toNat_and b 0xF).trans (Nat.and_two_pow_sub_one_eq_mod b.toNat 4)

theorem glyphAddr_toNat (digitMask : Bool) (v : Byte) :
    (glyphAddr digitMask v).toNat = if digitMask = true then v.toNat % 16 * 5 else v.toNat * 5 := by
  cases digitMask with
  | false => exact zextByte_mul_five_toNat v
  | true => exact (zextByte_mul_five_toNat _).trans (congrArg (· * 5) (and_lowNibbleMask_toNat v))

/-! ### A block store that is allowed (R96, R97) -/

/-- An instruction whose work is a block store: the bytes reach their cells in order, and beside these cells only PC
changes. -/
theorem State.commit_writeBlock_of_accessOk {s : State} {a : Nat} {bs : List Byte} (w : Word)
    (hacc : accessOk s.params.oorPolicy a bs.length) (hlen : bs.length ≤ Config.memSize) : ∃ m : List Host.Cell,
    s.commit w (s.advance.writeBlock a bs) = .next { s with mem := m, pc := s.pc + 2 } ∧
    (∀ (k : Nat) (h : k < bs.length), ({ s with mem := m } : State).cell (reach (a + k)) = bs[k]) ∧
    ∀ c, (∀ k < bs.length, c ≠ reach (a + k)) → ({ s with mem := m } : State).cell c = s.cell c := by
  obtain ⟨-, m, hok⟩ | ⟨hrefused, -⟩ := State.writeBlock_cases bs s.advance a
  · obtain ⟨hin, hout⟩ := State.cell_writeBlock bs s.advance _ a hlen hok
    exact ⟨m, by rw [hok]; rfl, hin, hout⟩
  · exact absurd hacc hrefused

@[simp] theorem bcdDigits_length (v : Byte) : (bcdDigits v).length = 3 := rfl

/-! ### A block load that is allowed (R98) -/

/-- An instruction whose whole work is to load the registers from V0 up. -/
theorem writesRegs_of_exec_eq_setRegs {i : Instr} {s : State} {bs : List Byte}
    (h : exec i s = .next (s.advance.setRegs 0 bs)) :
    WritesRegs i s (fun r => if hr : r.val < bs.length then bs[r.val] else s.reg r) := by
  obtain ⟨vs, heq, hget⟩ := s.advance.setRegs_eq bs 0
  rw [heq] at h
  refine ⟨vs, h, fun r => (hget r).trans ?_⟩
  simp only [Nat.zero_le, true_and, Nat.sub_zero]
  rfl

/-- The loaded bytes are the x + 1 that I points at, as DRW reads its rows. -/
theorem exec_ldVxMem_of_accessOk {s : State} (x : Reg) (hacc : accessOk s.params.oorPolicy s.index.toNat (x.val + 1)) :
    exec (.ldVxMem x) s = .next (s.advance.setRegs 0 (s.spriteRows (x.val + 1))) := by
  change s.commit (encode (.ldVxMem x)) ((s.readBlock s.index.toNat (x.val + 1)).map _) = _
  rw [State.readBlock_eq, if_pos hacc]
  rfl

/-! ### The obligations -/

/-- Settles O45: each instruction's whole work is one copy. -/
theorem timerInstructionsCopy : Obligations.TimerInstructionsCopy := by
  unfold Obligations.TimerInstructionsCopy
  refine fun x => ⟨decodeWord_eq_ok_iff.mpr (formXnn_eq_xnnWord 0xF x 0x07),
    decodeWord_eq_ok_iff.mpr (formXnn_eq_xnnWord 0xF x 0x15),
    decodeWord_eq_ok_iff.mpr (formXnn_eq_xnnWord 0xF x 0x18), fun s => ⟨?_, rfl, rfl⟩⟩
  exact writesRegs_of_exec_eq_setReg rfl

/-- Settles O46: the one write is that of I, with the 16-bit sum. -/
theorem addIndexWrapsAtSixteenBits : Obligations.AddIndexWrapsAtSixteenBits := by
  unfold Obligations.AddIndexWrapsAtSixteenBits
  refine fun x => ⟨decodeWord_eq_ok_iff.mpr (formXnn_eq_xnnWord 0xF x 0x1E), fun s => ?_⟩
  rw [ofNat_toNat_add_zextByte]
  rfl

/-- Settles O47: the one write is that of I, with the glyph's address. -/
theorem ldFSetsIndexToGlyph : Obligations.LdFSetsIndexToGlyph :=
  fun x => ⟨decodeWord_eq_ok_iff.mpr (formXnn_eq_xnnWord 0xF x 0x29), fun s =>
    ⟨glyphAddr s.params.fontDigitMask (s.reg x), rfl, glyphAddr_toNat s.params.fontDigitMask (s.reg x)⟩⟩

/-- Settles O48: the block store of the three digits. -/
theorem bcdStoresThreeDigits : Obligations.BcdStoresThreeDigits := by
  unfold Obligations.BcdStoresThreeDigits
  refine fun x => ⟨decodeWord_eq_ok_iff.mpr (formXnn_eq_xnnWord 0xF x 0x33), fun s hacc => ?_⟩
  obtain ⟨m, hexec, hdigit, hrest⟩ := State.commit_writeBlock_of_accessOk (s := s) (bs := bcdDigits (s.reg x))
    (encode (.ldBVx x)) hacc ((bcdDigits_length _).trans_le (by decide))
  refine ⟨m, hexec, ?_, ?_, ?_, hrest⟩
  · exact congrArg BitVec.toNat (hdigit 0 (by simp))
  · exact congrArg BitVec.toNat (hdigit 1 (by simp))
  · exact congrArg BitVec.toNat (hdigit 2 (by simp))

/-- Settles O49: the block store of V0 to Vx. -/
theorem blockStoreWritesV0ToVx : Obligations.BlockStoreWritesV0ToVx := by
  unfold Obligations.BlockStoreWritesV0ToVx
  refine fun x => ⟨decodeWord_eq_ok_iff.mpr (formXnn_eq_xnnWord 0xF x 0x55), fun s hacc => ?_⟩
  have hlen := s.regsUpTo_length x
  obtain ⟨m, hexec, hreg, hrest⟩ := State.commit_writeBlock_of_accessOk (s := s) (bs := s.regsUpTo x)
    (encode (.ldMemVx x)) (hlen ▸ hacc) (by rw [hlen, Config.memSize]; omega)
  refine ⟨m, hexec, fun k hk => ?_, fun a ha => hrest a fun k hk => ha k (by omega)⟩
  have hkx : k.val < (s.regsUpTo x).length := by rw [hlen]; exact Nat.lt_succ_of_le hk
  exact (hreg k.val hkx).trans (s.regsUpTo_getElem x k.val hkx k.isLt)

/-- Settles O50: the block load of the registers up to Vx. -/
theorem blockLoadReadsV0ToVx : Obligations.BlockLoadReadsV0ToVx := by
  unfold Obligations.BlockLoadReadsV0ToVx
  refine fun x => ⟨decodeWord_eq_ok_iff.mpr (formXnn_eq_xnnWord 0xF x 0x65), fun s hacc => ?_⟩
  obtain ⟨vs, hexec, hget⟩ := writesRegs_of_exec_eq_setRegs (exec_ldVxMem_of_accessOk x hacc)
  refine ⟨vs, hexec, fun r => (hget r).trans ?_⟩
  simp only [State.spriteRows_length, State.spriteRows_getElem, Nat.lt_succ_iff, dite_eq_ite, Fin.le_def]

/-- Settles O40: the one register write is that of the masked draw, which is used up. -/
theorem rndWritesMaskedFreshDraw : Obligations.RndWritesMaskedFreshDraw :=
  fun x nn => ⟨decodeWord_eq_ok_iff.mpr (formXnn_eq_xnnWord 0xC x nn), fun s =>
    ⟨s.v.set x.val (s.draw &&& nn), rfl, State.get_set s.v x (s.draw &&& nn)⟩⟩

end Sys2Proof.Machine
